-- ==== Sys2Proof/Word.lean ====
section
/-! DEFINITION. The widths of chip8emu CORE (00_scope.md R3, R5; 30_encoding.md R62). -/

namespace Sys2Proof

/-- A memory byte, a general register, a timer, an immediate `NN`: 8 bits (R10, R18, R40, R62). -/
abbrev Byte := BitVec 8

/-- An instruction word, `I`, `pc`, a stack entry: 16 bits (R13, R14, R16, R60). -/
abbrev Word := BitVec 16

/-- The address field `NNN`: 12 bits (R62). -/
abbrev Addr := BitVec 12

/-- A 4-bit field of an instruction word: a register index `X` or `Y`, the height or selector `N` (R62). -/
abbrev Nibble := BitVec 4

end Sys2Proof
end

