-- ==== Sys2Proof/Syntax.lean ====
section
/-! DEFINITION. The instructions: one constructor per row of spec/opcode_table.json (30_encoding.md R65, and the
three reserved rows of R66). Every field an encoding has is kept, the ignored `Y` of the shifts included (R72), so
that an instruction word can be written back from its instruction. -/

namespace Sys2Proof

inductive Instr where
  /-- `00E0` CLS, 44_display.md R150. -/
  | cls
  /-- `00EE` RET, 41_flow.md R101. -/
  | ret
  /-- `1NNN` JP NNN, R102. -/
  | jp (nnn : Addr)
  /-- `2NNN` CALL NNN, R103. -/
  | call (nnn : Addr)
  /-- `3XNN` SE Vx,NN, R106. -/
  | seImm (x : Nibble) (nn : Byte)
  /-- `4XNN` SNE Vx,NN, R107. -/
  | sneImm (x : Nibble) (nn : Byte)
  /-- `5XY0` SE Vx,Vy, R108. -/
  | seReg (x y : Nibble)
  /-- `6XNN` LD Vx,NN, 42_alu.md R121. -/
  | ldImm (x : Nibble) (nn : Byte)
  /-- `7XNN` ADD Vx,NN, R122. -/
  | addImm (x : Nibble) (nn : Byte)
  /-- `8XY0` LD Vx,Vy, R123. -/
  | ldReg (x y : Nibble)
  /-- `8XY1` OR Vx,Vy, R124. -/
  | orReg (x y : Nibble)
  /-- `8XY2` AND Vx,Vy, R125. -/
  | andReg (x y : Nibble)
  /-- `8XY3` XOR Vx,Vy, R126. -/
  | xorReg (x y : Nibble)
  /-- `8XY4` ADD Vx,Vy, R127. -/
  | addReg (x y : Nibble)
  /-- `8XY5` SUB Vx,Vy, R128. -/
  | subReg (x y : Nibble)
  /-- `8XY6` SHR Vx, R129; `y` is decoded and ignored (R72). -/
  | shr (x y : Nibble)
  /-- `8XY7` SUBN Vx,Vy, R130. -/
  | subnReg (x y : Nibble)
  /-- `8XYE` SHL Vx, R131; `y` is decoded and ignored (R72). -/
  | shl (x y : Nibble)
  /-- `9XY0` SNE Vx,Vy, R109. -/
  | sneReg (x y : Nibble)
  /-- `ANNN` LD I,NNN, 43_index_memory.md R141. -/
  | ldI (nnn : Addr)
  /-- `BNNN` JP V0,NNN, R105. -/
  | jpV0 (nnn : Addr)
  /-- `CXNN` RND Vx,NN, R133. -/
  | rnd (x : Nibble) (nn : Byte)
  /-- `DXYN` DRW Vx,Vy,N, R151. -/
  | drw (x y n : Nibble)
  /-- `EX9E` SKP Vx, 45_keypad_timers.md R161. -/
  | skp (x : Nibble)
  /-- `EXA1` SKNP Vx, R162. -/
  | sknp (x : Nibble)
  /-- `FX07` LD Vx,DT, R163. -/
  | ldVxDt (x : Nibble)
  /-- `FX15` LD DT,Vx, R164. -/
  | ldDtVx (x : Nibble)
  /-- `FX18` LD ST,Vx, R165. -/
  | ldStVx (x : Nibble)
  /-- `FX1E` ADD I,Vx, R142. -/
  | addI (x : Nibble)
  /-- `FX29` LD F,Vx, R143. -/
  | ldF (x : Nibble)
  /-- `FX33` LD B,Vx, R144. -/
  | ldB (x : Nibble)
  /-- `FX55` LD [I],Vx, R145. -/
  | storeRegs (x : Nibble)
  /-- `FX65` LD Vx,[I], R146. -/
  | loadRegs (x : Nibble)
  /-- `0NNN` but for `00E0` and `00EE`: reserved, an unknown word (30_encoding.md R71). -/
  | sys (nnn : Addr)
  /-- `FX0A`: reserved, an unknown word (30_encoding.md R70, R166). -/
  | ldVxK (x : Nibble)
  /-- Every other word: an unknown word (30_encoding.md R69). -/
  | unknown (w : Word)
deriving DecidableEq, Repr

/-- The row's mnemonic, letter for letter as spec/opcode_table.json has it. -/
def Instr.mnemonic : Instr → String
  | .cls => "CLS"
  | .ret => "RET"
  | .jp _ => "JP_NNN"
  | .call _ => "CALL_NNN"
  | .seImm _ _ => "SE_Vx_NN"
  | .sneImm _ _ => "SNE_Vx_NN"
  | .seReg _ _ => "SE_Vx_Vy"
  | .ldImm _ _ => "LD_Vx_NN"
  | .addImm _ _ => "ADD_Vx_NN"
  | .ldReg _ _ => "LD_Vx_Vy"
  | .orReg _ _ => "OR_Vx_Vy"
  | .andReg _ _ => "AND_Vx_Vy"
  | .xorReg _ _ => "XOR_Vx_Vy"
  | .addReg _ _ => "ADD_Vx_Vy"
  | .subReg _ _ => "SUB_Vx_Vy"
  | .shr _ _ => "SHR_Vx"
  | .subnReg _ _ => "SUBN_Vx_Vy"
  | .shl _ _ => "SHL_Vx"
  | .sneReg _ _ => "SNE_Vx_Vy"
  | .ldI _ => "LD_I_NNN"
  | .jpV0 _ => "JP_V0_NNN"
  | .rnd _ _ => "RND_Vx_NN"
  | .drw _ _ _ => "DRW_Vx_Vy_N"
  | .skp _ => "SKP_Vx"
  | .sknp _ => "SKNP_Vx"
  | .ldVxDt _ => "LD_Vx_DT"
  | .ldDtVx _ => "LD_DT_Vx"
  | .ldStVx _ => "LD_ST_Vx"
  | .addI _ => "ADD_I_Vx"
  | .ldF _ => "LD_F_Vx"
  | .ldB _ => "LD_B_Vx"
  | .storeRegs _ => "LD__I__Vx"
  | .loadRegs _ => "LD_Vx__I"
  | .sys _ => "SYS"
  | .ldVxK _ => "LD_Vx_K"
  | .unknown _ => "UNKNOWN"

/-- The 33 defined rows; the other three are unknown words (R65, R69). -/
def Instr.defined : Instr → Bool
  | .sys _ => false
  | .ldVxK _ => false
  | .unknown _ => false
  | .cls => true
  | .ret => true
  | .jp _ => true
  | .call _ => true
  | .seImm _ _ => true
  | .sneImm _ _ => true
  | .seReg _ _ => true
  | .ldImm _ _ => true
  | .addImm _ _ => true
  | .ldReg _ _ => true
  | .orReg _ _ => true
  | .andReg _ _ => true
  | .xorReg _ _ => true
  | .addReg _ _ => true
  | .subReg _ _ => true
  | .shr _ _ => true
  | .subnReg _ _ => true
  | .shl _ _ => true
  | .sneReg _ _ => true
  | .ldI _ => true
  | .jpV0 _ => true
  | .rnd _ _ => true
  | .drw _ _ _ => true
  | .skp _ => true
  | .sknp _ => true
  | .ldVxDt _ => true
  | .ldDtVx _ => true
  | .ldStVx _ => true
  | .addI _ => true
  | .ldF _ => true
  | .ldB _ => true
  | .storeRegs _ => true
  | .loadRegs _ => true

end Sys2Proof
end

