-- ==== Sys2Proof/WellFormed.lean ====
section
/-! DEFINITION. Which terms of Instr stand for an instruction word. Every field of a defined row is as wide as its
encoding (30_encoding.md R62, R63), so all of its values are well formed; only the reserved rows leave words out. -/

namespace Sys2Proof

/-- A family F selector of one of the eight defined rows (R65). -/
def definedFSelector (nn : Byte) : Bool :=
  nn == 0x07#8 || nn == 0x15#8 || nn == 0x18#8 || nn == 0x1E#8 ||
  nn == 0x29#8 || nn == 0x33#8 || nn == 0x55#8 || nn == 0x65#8

/-- The words that match no row of the table but the last: the table of 30_encoding.md R69, less family 0 (row
`SYS`) and `FX0A` (row `LD Vx,K`). -/
def unmatchedWord (w : Word) : Bool :=
  let f := w.extractLsb' 12 4
  let n := w.extractLsb' 0 4
  let nn := w.extractLsb' 0 8
  if f = 0x5#4 then n != 0x0#4
  else if f = 0x8#4 then 0x7#4 < n && n != 0xE#4
  else if f = 0x9#4 then n != 0x0#4
  else if f = 0xE#4 then nn != 0x9E#8 && nn != 0xA1#8
  else if f = 0xF#4 then nn != 0x0A#8 && !definedFSelector nn
  else false

/-- `sys` leaves out the two defined words of family 0 (R71); `unknown` holds only words no other row matches
(R69). -/
def WellFormed : Instr → Bool
  | .sys nnn => nnn != 0x0E0#12 && nnn != 0x0EE#12
  | .unknown w => unmatchedWord w
  | .cls => true
  | .ret => true
  | .jp _ => true
  | .call _ => true
  | .seImm _ _ => true
  | .sneImm _ _ => true
  | .seReg _ _ => true
  | .ldImm _ _ => true
  | .addImm _ _ => true
  | .ldReg _ _ => true
  | .orReg _ _ => true
  | .andReg _ _ => true
  | .xorReg _ _ => true
  | .addReg _ _ => true
  | .subReg _ _ => true
  | .shr _ _ => true
  | .subnReg _ _ => true
  | .shl _ _ => true
  | .sneReg _ _ => true
  | .ldI _ => true
  | .jpV0 _ => true
  | .rnd _ _ => true
  | .drw _ _ _ => true
  | .skp _ => true
  | .sknp _ => true
  | .ldVxDt _ => true
  | .ldDtVx _ => true
  | .ldStVx _ => true
  | .addI _ => true
  | .ldF _ => true
  | .ldB _ => true
  | .storeRegs _ => true
  | .loadRegs _ => true
  | .ldVxK _ => true

end Sys2Proof
end

