-- ==== Sys2Proof/Decode.lean ====
section
/-! DEFINITION. The decoder and the encoder (30_encoding.md). Each is written from the encodings of R61, R62 and
R65; the opcode table itself stands below them as data, in the order of spec/opcode_table.json. -/

namespace Sys2Proof

/-- Field `F`, the family: bits 15 to 12 (R62). -/
def fieldF (w : Word) : Nibble := w.extractLsb' 12 4
/-- Field `X`: bits 11 to 8 (R62). -/
def fieldX (w : Word) : Nibble := w.extractLsb' 8 4
/-- Field `Y`: bits 7 to 4 (R62). -/
def fieldY (w : Word) : Nibble := w.extractLsb' 4 4
/-- Field `N`: bits 3 to 0 (R62). -/
def fieldN (w : Word) : Nibble := w.extractLsb' 0 4
/-- Field `NN`: bits 7 to 0 (R62). -/
def fieldNN (w : Word) : Byte := w.extractLsb' 0 8
/-- Field `NNN`: bits 11 to 0 (R62). -/
def fieldNNN (w : Word) : Addr := w.extractLsb' 0 12

/-- Family 0 is matched on all 16 bits (R67); the rest of it is the reserved row `SYS` (R71). -/
def decodeFamily0 (nnn : Addr) : Instr :=
  if nnn = 0x0E0#12 then .cls
  else if nnn = 0x0EE#12 then .ret
  else .sys nnn

/-- Family 8: the sub-selector is `N` (R67); seven of its values are unknown words (R69). -/
def decodeAlu (w : Word) (x y n : Nibble) : Instr :=
  if n = 0x0#4 then .ldReg x y
  else if n = 0x1#4 then .orReg x y
  else if n = 0x2#4 then .andReg x y
  else if n = 0x3#4 then .xorReg x y
  else if n = 0x4#4 then .addReg x y
  else if n = 0x5#4 then .subReg x y
  else if n = 0x6#4 then .shr x y
  else if n = 0x7#4 then .subnReg x y
  else if n = 0xE#4 then .shl x y
  else .unknown w

/-- Family E: the sub-selector is `NN` (R67). -/
def decodeKeys (w : Word) (x : Nibble) (nn : Byte) : Instr :=
  if nn = 0x9E#8 then .skp x
  else if nn = 0xA1#8 then .sknp x
  else .unknown w

/-- Family F: the sub-selector is `NN` (R67); `FX0A` is the reserved row `LD Vx,K` (R70). -/
def decodeMisc (w : Word) (x : Nibble) (nn : Byte) : Instr :=
  if nn = 0x07#8 then .ldVxDt x
  else if nn = 0x15#8 then .ldDtVx x
  else if nn = 0x18#8 then .ldStVx x
  else if nn = 0x1E#8 then .addI x
  else if nn = 0x29#8 then .ldF x
  else if nn = 0x33#8 then .ldB x
  else if nn = 0x55#8 then .storeRegs x
  else if nn = 0x65#8 then .loadRegs x
  else if nn = 0x0A#8 then .ldVxK x
  else .unknown w

/-- The dispatch of a word by family and sub-selector (R65, R67, 40_step_cycle.md R83, R84): total, a function of
the word alone (R66). -/
def decodeWord (w : Word) : Instr :=
  let x := fieldX w
  let y := fieldY w
  let n := fieldN w
  let nn := fieldNN w
  let nnn := fieldNNN w
  match fieldF w with
  | 0x0#4 => decodeFamily0 nnn
  | 0x1#4 => .jp nnn
  | 0x2#4 => .call nnn
  | 0x3#4 => .seImm x nn
  | 0x4#4 => .sneImm x nn
  | 0x5#4 => if n = 0x0#4 then .seReg x y else .unknown w
  | 0x6#4 => .ldImm x nn
  | 0x7#4 => .addImm x nn
  | 0x8#4 => decodeAlu w x y n
  | 0x9#4 => if n = 0x0#4 then .sneReg x y else .unknown w
  | 0xA#4 => .ldI nnn
  | 0xB#4 => .jpV0 nnn
  | 0xC#4 => .rnd x nn
  | 0xD#4 => .drw x y n
  | 0xE#4 => decodeKeys w x nn
  | _ => decodeMisc w x nn

/-- Why bytes hold no instruction. -/
inductive DecodeError where
  /-- Fewer than the two bytes every instruction has (R60). Raised by `decode` on a list that ends early; the step
  never meets it, because a fetch reads both bytes or is rejected. Safe. -/
  | truncated
deriving DecidableEq, Repr

/-- Two bytes in memory order, big-endian (20_memory.md R43): the first is bits 15 to 8. -/
def joinBytes (hi lo : Byte) : Word := hi ++ lo

/-- The two bytes of a word in memory order (30_encoding.md R74). -/
def wordBytes (w : Word) : List Byte := [w.extractLsb' 8 8, w.extractLsb' 0 8]

/-- The first instruction of a byte sequence, and the rest of the sequence. -/
def decode : List Byte → Except DecodeError (Instr × List Byte)
  | hi :: lo :: rest => .ok (decodeWord (joinBytes hi lo), rest)
  | _ => .error .truncated

/-- The instruction word of an instruction: its row's fixed bits and its fields (R61, R65). -/
def encode : Instr → Word
  | .cls => 0x00E0#16
  | .ret => 0x00EE#16
  | .jp nnn => 0x1#4 ++ nnn
  | .call nnn => 0x2#4 ++ nnn
  | .seImm x nn => 0x3#4 ++ x ++ nn
  | .sneImm x nn => 0x4#4 ++ x ++ nn
  | .seReg x y => 0x5#4 ++ x ++ y ++ 0x0#4
  | .ldImm x nn => 0x6#4 ++ x ++ nn
  | .addImm x nn => 0x7#4 ++ x ++ nn
  | .ldReg x y => 0x8#4 ++ x ++ y ++ 0x0#4
  | .orReg x y => 0x8#4 ++ x ++ y ++ 0x1#4
  | .andReg x y => 0x8#4 ++ x ++ y ++ 0x2#4
  | .xorReg x y => 0x8#4 ++ x ++ y ++ 0x3#4
  | .addReg x y => 0x8#4 ++ x ++ y ++ 0x4#4
  | .subReg x y => 0x8#4 ++ x ++ y ++ 0x5#4
  | .shr x y => 0x8#4 ++ x ++ y ++ 0x6#4
  | .subnReg x y => 0x8#4 ++ x ++ y ++ 0x7#4
  | .shl x y => 0x8#4 ++ x ++ y ++ 0xE#4
  | .sneReg x y => 0x9#4 ++ x ++ y ++ 0x0#4
  | .ldI nnn => 0xA#4 ++ nnn
  | .jpV0 nnn => 0xB#4 ++ nnn
  | .rnd x nn => 0xC#4 ++ x ++ nn
  | .drw x y n => 0xD#4 ++ x ++ y ++ n
  | .skp x => 0xE#4 ++ x ++ 0x9E#8
  | .sknp x => 0xE#4 ++ x ++ 0xA1#8
  | .ldVxDt x => 0xF#4 ++ x ++ 0x07#8
  | .ldDtVx x => 0xF#4 ++ x ++ 0x15#8
  | .ldStVx x => 0xF#4 ++ x ++ 0x18#8
  | .addI x => 0xF#4 ++ x ++ 0x1E#8
  | .ldF x => 0xF#4 ++ x ++ 0x29#8
  | .ldB x => 0xF#4 ++ x ++ 0x33#8
  | .storeRegs x => 0xF#4 ++ x ++ 0x55#8
  | .loadRegs x => 0xF#4 ++ x ++ 0x65#8
  | .sys nnn => 0x0#4 ++ nnn
  | .ldVxK x => 0xF#4 ++ x ++ 0x0A#8
  | .unknown w => w

/-- The bytes of an instruction as a program image holds them (R74). -/
def encodeBytes (i : Instr) : List Byte := wordBytes (encode i)

/-- A row of spec/opcode_table.json: a word is this row's if and only if `w & mask = pattern` (R65). -/
structure TableRow where
  mnemonic : String
  mask : Word
  pattern : Word
deriving DecidableEq, Repr

/-- The row's match (R65). -/
def TableRow.isMatch (r : TableRow) (w : Word) : Bool := w &&& r.mask == r.pattern

/-- The rows selected by the family alone, or (family 0) by all 16 bits (R67). -/
def familyRows : List TableRow :=
  [⟨"CLS", 0xFFFF, 0x00E0⟩, ⟨"RET", 0xFFFF, 0x00EE⟩, ⟨"JP_NNN", 0xF000, 0x1000⟩, ⟨"CALL_NNN", 0xF000, 0x2000⟩,
   ⟨"SE_Vx_NN", 0xF000, 0x3000⟩, ⟨"SNE_Vx_NN", 0xF000, 0x4000⟩, ⟨"SE_Vx_Vy", 0xF00F, 0x5000⟩,
   ⟨"LD_Vx_NN", 0xF000, 0x6000⟩, ⟨"ADD_Vx_NN", 0xF000, 0x7000⟩]

/-- The rows of families 8 and 9. -/
def aluRows : List TableRow :=
  [⟨"LD_Vx_Vy", 0xF00F, 0x8000⟩, ⟨"OR_Vx_Vy", 0xF00F, 0x8001⟩, ⟨"AND_Vx_Vy", 0xF00F, 0x8002⟩,
   ⟨"XOR_Vx_Vy", 0xF00F, 0x8003⟩, ⟨"ADD_Vx_Vy", 0xF00F, 0x8004⟩, ⟨"SUB_Vx_Vy", 0xF00F, 0x8005⟩,
   ⟨"SHR_Vx", 0xF00F, 0x8006⟩, ⟨"SUBN_Vx_Vy", 0xF00F, 0x8007⟩, ⟨"SHL_Vx", 0xF00F, 0x800E⟩,
   ⟨"SNE_Vx_Vy", 0xF00F, 0x9000⟩]

/-- The rows of families A to F. -/
def upperRows : List TableRow :=
  [⟨"LD_I_NNN", 0xF000, 0xA000⟩, ⟨"JP_V0_NNN", 0xF000, 0xB000⟩, ⟨"RND_Vx_NN", 0xF000, 0xC000⟩,
   ⟨"DRW_Vx_Vy_N", 0xF000, 0xD000⟩, ⟨"SKP_Vx", 0xF0FF, 0xE09E⟩, ⟨"SKNP_Vx", 0xF0FF, 0xE0A1⟩,
   ⟨"LD_Vx_DT", 0xF0FF, 0xF007⟩, ⟨"LD_DT_Vx", 0xF0FF, 0xF015⟩, ⟨"LD_ST_Vx", 0xF0FF, 0xF018⟩,
   ⟨"ADD_I_Vx", 0xF0FF, 0xF01E⟩, ⟨"LD_F_Vx", 0xF0FF, 0xF029⟩, ⟨"LD_B_Vx", 0xF0FF, 0xF033⟩,
   ⟨"LD__I__Vx", 0xF0FF, 0xF055⟩, ⟨"LD_Vx__I", 0xF0FF, 0xF065⟩]

/-- The 33 defined rows (R65). -/
def definedRows : List TableRow := familyRows ++ aluRows ++ upperRows

/-- The reserved rows, listed last (R66). -/
def reservedRows : List TableRow :=
  [⟨"SYS", 0xF000, 0x0000⟩, ⟨"LD_Vx_K", 0xF0FF, 0xF00A⟩, ⟨"UNKNOWN", 0x0000, 0x0000⟩]

/-- spec/opcode_table.json: tested in file order, the first match wins (R66). -/
def opcodeTable : List TableRow := definedRows ++ reservedRows

/-- The mnemonic of the first row that matches (R66). -/
def tableMnemonic (w : Word) : Option String := (opcodeTable.find? (·.isMatch w)).map (·.mnemonic)

/-- What `decode` reads from an instruction whose bits are `w` (numbered as spec/opcode_table.json numbers them),
laid out as memory holds it; bits above `nbits` are 0. -/
def decodeTableWord (nbits w : Nat) : Option Instr :=
  match decode (wordBytes (BitVec.ofNat 16 (w % 2 ^ nbits))) with
  | .ok (i, _) => some i
  | .error _ => none

end Sys2Proof
end

