-- ==== Sys2Proof/Config.lean ====
section
/-! DEFINITION. The two parameters of the block (00_scope.md R4): the font and the random input. -/

namespace Sys2Proof

/-- The 80 bytes that `initialize` copies to addresses 0 to 79 (70_reset_and_hazards.md R202). -/
abbrev Font := Vector Byte 80

/-- Glyphs 0 to 7 of the default font (R202). -/
def Config.fontLow : List Byte :=
  [0xF0#8, 0x90#8, 0x90#8, 0x90#8, 0xF0#8] ++
  [0x20#8, 0x60#8, 0x20#8, 0x20#8, 0x70#8] ++
  [0xF0#8, 0x10#8, 0xF0#8, 0x80#8, 0xF0#8] ++
  [0xF0#8, 0x10#8, 0xF0#8, 0x10#8, 0xF0#8] ++
  [0x90#8, 0x90#8, 0xF0#8, 0x10#8, 0x10#8] ++
  [0xF0#8, 0x80#8, 0xF0#8, 0x10#8, 0xF0#8] ++
  [0xF0#8, 0x80#8, 0xF0#8, 0x90#8, 0xF0#8] ++
  [0xF0#8, 0x10#8, 0x20#8, 0x40#8, 0x40#8]

/-- Glyphs 8 to F of the default font (R202). -/
def Config.fontHigh : List Byte :=
  [0xF0#8, 0x90#8, 0xF0#8, 0x90#8, 0xF0#8] ++
  [0xF0#8, 0x90#8, 0xF0#8, 0x10#8, 0xF0#8] ++
  [0xF0#8, 0x90#8, 0xF0#8, 0x90#8, 0x90#8] ++
  [0xE0#8, 0x90#8, 0xE0#8, 0x90#8, 0xE0#8] ++
  [0xF0#8, 0x80#8, 0x80#8, 0x80#8, 0xF0#8] ++
  [0xE0#8, 0x90#8, 0x90#8, 0x90#8, 0xE0#8] ++
  [0xF0#8, 0x80#8, 0xF0#8, 0x80#8, 0xF0#8] ++
  [0xF0#8, 0x80#8, 0xF0#8, 0x80#8, 0x80#8]

/-- The spec's default value of the parameter FONT (R202, D24). DESIGN CHOICE: State.reset and what an unlisted address
reads as use it; the bytes are UNVERIFIED, the spec takes them from general knowledge (G7); log 3. The host's reset
takes any font. -/
def Config.defaultFont : Font := ⟨⟨Config.fontLow ++ Config.fontHigh⟩, rfl⟩

/-- The byte the random source supplies with draw `k` (10_state.md R27): a FREE VALUE, it has no body, so nothing
can be proved of it. DESIGN CHOICE in form only; log 2. -/
opaque Config.rnd : Nat → Byte

end Sys2Proof
end

