-- ==== Sys2Proof/Machine/State.lean ====
section
/-! DEFINITION. The state of chip8emu CORE (10_state.md R10 to R24, R26) as plain data, its value after reset (R200),
and the reasons a step can end otherwise than in a next state. -/

namespace Sys2Proof.Machine

/-- What a step returns to the host (10_state.md R25): NONE, or one of the six conditions of 60_exceptions.md R170
with its information word. It is no stop: the machine goes on (R171). -/
inductive Report where
  /-- Code 0: the step met no condition. -/
  | none
  /-- Code 1, any unknown word (R69, R87); the fetched word. -/
  | unknownOpcode (w : Word)
  /-- Code 2, `CALL` with `sp = 16` (R103); the address of the `CALL`. -/
  | stackOverflow (a : Word)
  /-- Code 3, `RET` with `sp = 0` (R101); the address of the `RET`. -/
  | stackUnderflow (a : Word)
  /-- Code 4, a data address above 4095 (R45, R46); the lowest rejected address. -/
  | memRange (a : Word)
  /-- Code 5, `pc > 4094` at the fetch (R82); `pc`. -/
  | fetchRange (pc : Word)
  /-- Code 6, `SKP` or `SKNP` with `Vx > 15` (R161, R162); `Vx`. -/
  | keyRange (k : Byte)
deriving DecidableEq, Repr

/-- The sixteen general registers (R10); `VF` is number 15 (R11). -/
abbrev RegFile := Vector Byte 16

/-- The framebuffer: `fb[x][y]` is the spec's `FB[x][y]`, column `x` and row `y` (R20); one bit a pixel. DESIGN
CHOICE of representation, the spec fixes no linear order (D23); log 7. -/
abbrev Frame := Vector (Vector Bool 32) 64

/-- Memory: the bytes that differ from what reset leaves, by rising address; log 8. -/
abbrev Memory := List Host.Cell

/-- Every piece of state of R26, and after it the model's own fields: the output of the latest step, the input of the
step in progress, and the counter of the random source. -/
structure State where
  /-- `V[0]` to `V[15]` (R10, R11). -/
  v : RegFile
  /-- The index register `I` (R13). -/
  i : Word
  /-- The program counter (R14). -/
  pc : Word
  /-- `STACK[0]` to `STACK[15]` (R16). -/
  stack : Vector Word 16
  /-- The stack pointer, the number of live entries, 0 to 16 (R17); log 6. -/
  sp : Fin 17
  /-- `DT`, the delay timer (R18). -/
  dt : Byte
  /-- `ST`, the sound timer (R19). -/
  st : Byte
  /-- `FB` (R20). -/
  fb : Frame
  /-- `DF`, the draw-flag (R21). -/
  df : Bool
  /-- `KEY[0]` to `KEY[15]`, true = pressed (R22). -/
  key : Vector Bool 16
  /-- `MEM` (R23, R40). -/
  mem : Memory
  /-- `ESR`, the sticky error status, bit `k - 1` for report code `k` (R24). -/
  esr : BitVec 6
  /-- The report the latest step returned (R25). The MODEL's own field: an output, read by no instruction; log 1. -/
  report : Report
  /-- The byte `rnd` supplied with the step in progress (R27, R81). The MODEL's own field: an input; log 2. -/
  rnd : Byte
  /-- How many bytes were drawn from the random source. The MODEL's own field; log 2. -/
  draws : Nat
deriving DecidableEq, Repr

/-- The state after reset (70_reset_and_hazards.md R200), memory at its reset contents with nothing listed. The last
three fields are the model's own (log 1, log 2). -/
def State.reset : State where
  v := Vector.replicate 16 0#8
  i := 0#16
  pc := 0x0200#16
  stack := Vector.replicate 16 0#16
  sp := 0
  dt := 0#8
  st := 0#8
  fb := Vector.replicate 64 (Vector.replicate 32 false)
  df := true
  key := Vector.replicate 16 false
  mem := []
  esr := 0#6
  report := .none
  rnd := 0#8
  draws := 0

/-- The reasons the machine stops with a fault: there is none. Every condition the spec describes is a report, after
which the machine goes on (60_exceptions.md R171, R172), so no step faults. -/
inductive Fault
deriving DecidableEq, Repr

/-- The reasons an instruction has no meaning. -/
inductive Refusal where
  /-- Raised only by an arm of exec for an instruction that has no meaning yet; no arm is left so. Safe. -/
  | notModelled (mnemonic : String)
deriving DecidableEq, Repr

/-- What running an instruction or a step answers. -/
abbrev Result := Host.Outcome State Fault Refusal

end Sys2Proof.Machine
end

