-- ==== Sys2Proof/Machine/Ops.lean ====
section
/-! DEFINITION. The named operations over registers, stack, framebuffer and memory, raising a report, the timer tick,
and the fetch. -/

namespace Sys2Proof.Machine

/-! ## Extension -/

/-- `zext_16(NNN)` (R63). -/
def zextAddr (nnn : Addr) : Word := nnn.setWidth 16

/-- `zext_16(v)` of a byte (00_scope.md section 5). -/
def zextByte (b : Byte) : Word := b.setWidth 16

/-! ## Memory (20_memory.md) -/

/-- What an address that memory does not list reads as: the contents reset leaves (R41, R200, R202), the default font
at 0 to 79 and 0 above it. The font bytes are the default ones, a DESIGN CHOICE (log 3). -/
def Memory.unlisted (a : Nat) : Byte := if h : a < 80 then Config.defaultFont[a] else 0#8

/-- `MEM[a]` (R40). Reading changes nothing (R50). -/
def Memory.read : Memory → Nat → Byte
  | [], a => Memory.unlisted a
  | (k, b) :: rest, a => if k = a then b else Memory.read rest a

/-- The list without address `a`. -/
def Memory.erase : Memory → Nat → Memory
  | [], _ => []
  | (k, b) :: rest, a => if k = a then Memory.erase rest a else (k, b) :: Memory.erase rest a

/-- The list with `(a, b)` before the first greater address. -/
def Memory.insert : Memory → Nat → Byte → Memory
  | [], a, b => [(a, b)]
  | (k, c) :: rest, a, b => if a < k then (a, b) :: (k, c) :: rest else (k, c) :: Memory.insert rest a b

/-- `MEM[a] <- b`. An address outside 0 to 4095 is never written (R45); writing what an unlisted address reads as
leaves nothing listed, so that equal memories are equal lists. -/
def Memory.write (m : Memory) (a : Nat) (b : Byte) : Memory :=
  if a ≤ 4095 then
    if b = Memory.unlisted a then m.erase a else (m.erase a).insert a b
  else m

/-- Single-byte writes at ascending addresses from `a` (R49). -/
def Memory.writeAll : Memory → Nat → List Byte → Memory
  | m, _, [] => m
  | m, a, b :: bs => Memory.writeAll (m.write a b) (a + 1) bs

/-- The canonical form: addresses strictly rise and exist, and no entry equals what an unlisted address reads as. -/
abbrev Memory.wf (m : Memory) : Prop :=
  m.Pairwise (fun p q => p.1 < q.1) ∧ ∀ c ∈ m, c.1 ≤ 4095 ∧ c.2 ≠ Memory.unlisted c.1

/-! ## Registers, stack, framebuffer (10_state.md) -/

/-- `V[x]` (R10). -/
def State.getV (s : State) (x : Nibble) : Byte := s.v[x.toNat]'x.isLt

/-- `V[x] <- b` (R10). -/
def State.setV (s : State) (x : Nibble) (b : Byte) : State := { s with v := s.v.set x.toNat b x.isLt }

/-- `VF`, register 15 (R11). -/
def regF : Nibble := 0xF#4

/-- `pc <- t` (R104): the target is not checked. -/
def State.setPc (s : State) (t : Word) : State := { s with pc := t }

/-- `pc <- (pc + 2) mod 65536`: the fetch's advance (R82), and a skip that is taken (R106). -/
def State.advancePc (s : State) : State := s.setPc (s.pc + 2#16)

/-- `I <- w` (R13). -/
def State.setI (s : State) (w : Word) : State := { s with i := w }

/-- A push (R17): the value at `STACK[sp]`, then `sp + 1`. -/
def State.push (s : State) (w : Word) (h : s.sp.val < 16) : State :=
  { s with stack := s.stack.set s.sp.val w h, sp := ⟨s.sp.val + 1, by omega⟩ }

/-- The entry a pop reads, `STACK[sp - 1]` (R17). -/
def State.top (s : State) (_h : s.sp.val ≠ 0) : Word := s.stack[s.sp.val - 1]'(by omega)

/-- A pop (R17): `sp - 1`; the entry keeps its value. -/
def State.pop (s : State) : State := { s with sp := ⟨s.sp.val - 1, by omega⟩ }

/-- `DT <- b` (R18). -/
def State.setDt (s : State) (b : Byte) : State := { s with dt := b }

/-- `ST <- b` (R19). -/
def State.setSt (s : State) (b : Byte) : State := { s with st := b }

/-- `FB[x][y]` (R20). -/
def Frame.get (f : Frame) (x : Fin 64) (y : Fin 32) : Bool := f[x.val][y.val]

/-- `FB[x][y] <- b` (R20). -/
def Frame.put (f : Frame) (x : Fin 64) (y : Fin 32) (b : Bool) : Frame := f.set x.val (f[x.val].set y.val b)

/-- The blank framebuffer (R150, R200). -/
def Frame.blank : Frame := Vector.replicate 64 (Vector.replicate 32 false)

/-- A new framebuffer, and the draw-flag set with it: `CLS` and `DRW` do both (R21, R149). -/
def State.present (s : State) (f : Frame) : State := { s with fb := f, df := true }

/-- Stores at ascending addresses from `a` (R49). -/
def State.storeAll (s : State) (a : Nat) (bs : List Byte) : State := { s with mem := s.mem.writeAll a bs }

/-- `V[0]` to `V[n-1]` loaded from `a` to `a + n - 1`, in ascending order (R146). -/
def loadRegFile (m : Memory) (a : Nat) : Nat → RegFile → RegFile
  | 0, v => v
  | n + 1, v => (loadRegFile m a n v).setIfInBounds n (m.read (a + n))

/-! ## Reports (60_exceptions.md): the machine's one exceptional operation -/

/-- The report's code, 0 to 6 (R170). -/
def Report.code : Report → Nat
  | .none => 0
  | .unknownOpcode _ => 1
  | .stackOverflow _ => 2
  | .stackUnderflow _ => 3
  | .memRange _ => 4
  | .fetchRange _ => 5
  | .keyRange _ => 6

/-- The `ESR` bit of a report: bit `code - 1`, `UNK`, `SOV`, `SUN`, `MRG`, `FRG`, `KRG`; none for NONE (R24). -/
def Report.esrBit : Report → BitVec 6
  | .none => 0b000000#6
  | .unknownOpcode _ => 0b000001#6
  | .stackOverflow _ => 0b000010#6
  | .stackUnderflow _ => 0b000100#6
  | .memRange _ => 0b001000#6
  | .fetchRange _ => 0b010000#6
  | .keyRange _ => 0b100000#6

/-- `raise r` (00_scope.md section 5; R171, R178): the phase ends having written nothing, and the step will return `r`.
Nothing is saved and control goes to no handler; there is no return from it (R179). -/
def State.raise (s : State) (r : Report) : State := { s with report := r }

/-- The address `a` the instruction in execution was fetched from: its fetch left `pc = a + 2` (R82, R100). -/
def State.instrAddr (s : State) : Word := s.pc - 2#16

/-! ## The phases around execute (40_step_cycle.md R81) -/

/-- A step begins: no report yet, and `rnd` is the byte the host supplies with this step (R27, R81). -/
def State.begin (s : State) (rnd : Byte) : State := { s with report := .none, rnd := rnd }

/-- One more byte has been drawn from the random source (R27, R205: one a step). -/
def State.countDraw (s : State) : State := { s with draws := s.draws + 1 }

/-- Phase 1 (R82, R43, R45): the big-endian word at `pc`, or none where `pc > 4094`. -/
def State.fetch (s : State) : Option Word :=
  if s.pc.toNat > 4094 then none
  else some (joinBytes (s.mem.read s.pc.toNat) (s.mem.read (s.pc.toNat + 1)))

/-- One timer's tick (R86). -/
def tickDown (b : Byte) : Byte := if b = 0#8 then 0#8 else b - 1#8

/-- Phase 4 (R86): both timers tick, independently. -/
def State.tick (s : State) : State := { s with dt := tickDown s.dt, st := tickDown s.st }

/-- The report's bit is set in `ESR`; no bit is cleared (R24, R81). -/
def State.logReport (s : State) : State := { s with esr := s.esr ||| s.report.esrBit }

/-- What every step ends with, whatever came before (R81, R86). -/
def State.finish (s : State) : State := s.tick.logReport

/-- The answer of an execute phase, with the end of the step after it. -/
def finishResult : Result → Result
  | .next s => .next s.finish
  | .fault r => .fault r
  | .refused r => .refused r

end Sys2Proof.Machine
end

