-- ==== Sys2Proof/Machine/Operands.lean ====
section
/-! DEFINITION. The operand forms: registers, immediates and the one addressing mode `I + i`, with its range check
(30_encoding.md R63; 43_index_memory.md R140; 20_memory.md R45, R46). -/

namespace Sys2Proof.Machine

/-- The base address of a data access: `I`, as an unbounded natural (R5, R140). -/
def State.base (s : State) : Nat := s.i.toNat

/-- Some of the `count` addresses from `base` is above 4095 (R46): the last of them is; none where `count = 0`. -/
abbrev outOfRange (base count : Nat) : Prop := 0 < count ∧ 4095 < base + (count - 1)

/-- The information word of `MEM_RANGE`: the lowest rejected address, `max(I, 4096)` (R46). -/
def lowestRejected (i : Word) : Word := if i.toNat < 4096 then 0x1000#16 else i

/-- A memory instruction over `count` bytes from `I` (R46): it raises before it writes anything, or it becomes `t`. -/
def State.guardMem (s : State) (count : Nat) (t : State) : Result :=
  if outOfRange s.base count then .next (s.raise (.memRange (lowestRejected s.i))) else .next t

/-- How many registers the register dump and load move: `X + 1`, inclusive of `X` (R145, R146). -/
def regCount (x : Nibble) : Nat := x.toNat + 1

/-- `V[0]` to `V[X]` in ascending order (R145). -/
def State.regsUpTo (s : State) (x : Nibble) : List Byte := s.v.toList.take (regCount x)

/-- `V[0]` to `V[X]` loaded from `I` to `I + X` (R146). -/
def State.loadRegs (s : State) (x : Nibble) : State := { s with v := loadRegFile s.mem s.base (regCount x) s.v }

/-- The key named by a register's value, and `KEY_RANGE` where it names none (R161, R162): the instruction becomes
`t` of the key's state. -/
def State.guardKey (s : State) (vx : Byte) (t : Bool → State) : Result :=
  if h : vx.toNat < 16 then .next (t (s.key[vx.toNat]'h)) else .next (s.raise (.keyRange vx))

/-- A skip (41_flow.md section 3): `pc + 2` where the condition holds. -/
def State.skipIf (s : State) (c : Bool) : State := if c then s.advancePc else s

/-- The target of the indexed jump, not reduced to 12 bits (R105). -/
def State.indexedTarget (s : State) (nnn : Addr) : Word := zextAddr nnn + zextByte (s.getV 0#4)

/-- The address of the glyph a value names; the whole value counts (R143). -/
def fontAddress (vx : Byte) : Word := 5#16 * zextByte vx

/-- The decimal digits of a byte, most significant first (R144). -/
def bcdDigits (vx : Byte) : List Byte := [vx / 100#8, vx / 10#8 % 10#8, vx % 10#8]

end Sys2Proof.Machine
end

