-- ==== Sys2Proof/Machine/Flags.lean ====
section
/-! DEFINITION. The flag computations (42_alu.md R132) and the writing of flag and result (40_step_cycle.md R85). -/

namespace Sys2Proof.Machine

/-- A flag as the byte `VF` holds (R11). -/
def flagByte (c : Bool) : Byte := if c then 1#8 else 0#8

/-- Carry of an addition: the unsigned sum is above 255 (R127). -/
def carryOf (p q : Byte) : Bool := decide (255 < p.toNat + q.toNat)

/-- No borrow of `p - q`, equality included (R128, R130). -/
def noBorrowOf (p q : Byte) : Bool := decide (q.toNat ≤ p.toNat)

/-- The bit a right shift by one moves out: bit 0 (R129). -/
def lowBitOf (p : Byte) : Bool := p.getLsbD 0

/-- The bit a left shift by one moves out: bit 7 (R131). -/
def highBitOf (p : Byte) : Bool := p.getLsbD 7

/-- `VF` is written first and `V[x]` second, so with `x = 15` the result is what remains (R85, R11). -/
def State.setFlagged (s : State) (x : Nibble) (flag : Bool) (result : Byte) : State :=
  (s.setV regF (flagByte flag)).setV x result

end Sys2Proof.Machine
end

