-- ==== Sys2Proof/Machine/Alu.lean ====
section
/-! DEFINITION. Register arithmetic and logic (42_alu.md). Operands are read from the state before anything is
written (40_step_cycle.md R85). -/

namespace Sys2Proof.Machine

/-- `LD Vx,NN` (R121). -/
def execLdImm (x : Nibble) (nn : Byte) (s : State) : Result := .next (s.setV x nn)

/-- `ADD Vx,NN` (R122): no flag. -/
def execAddImm (x : Nibble) (nn : Byte) (s : State) : Result := .next (s.setV x (s.getV x + nn))

/-- `LD Vx,Vy` (R123). -/
def execLdReg (x y : Nibble) (s : State) : Result := .next (s.setV x (s.getV y))

/-- `OR Vx,Vy` (R124): no flag. -/
def execOrReg (x y : Nibble) (s : State) : Result := .next (s.setV x (s.getV x ||| s.getV y))

/-- `AND Vx,Vy` (R125): no flag. -/
def execAndReg (x y : Nibble) (s : State) : Result := .next (s.setV x (s.getV x &&& s.getV y))

/-- `XOR Vx,Vy` (R126): no flag. -/
def execXorReg (x y : Nibble) (s : State) : Result := .next (s.setV x (s.getV x ^^^ s.getV y))

/-- `ADD Vx,Vy` (R127). -/
def execAddReg (x y : Nibble) (s : State) : Result :=
  .next (s.setFlagged x (carryOf (s.getV x) (s.getV y)) (s.getV x + s.getV y))

/-- `SUB Vx,Vy` (R128). -/
def execSubReg (x y : Nibble) (s : State) : Result :=
  .next (s.setFlagged x (noBorrowOf (s.getV x) (s.getV y)) (s.getV x - s.getV y))

/-- `SHR Vx` (R129): `Vx` in place, the field `Y` is ignored (R72). -/
def execShr (x _y : Nibble) (s : State) : Result := .next (s.setFlagged x (lowBitOf (s.getV x)) (s.getV x >>> 1))

/-- `SUBN Vx,Vy` (R130). -/
def execSubnReg (x y : Nibble) (s : State) : Result :=
  .next (s.setFlagged x (noBorrowOf (s.getV y) (s.getV x)) (s.getV y - s.getV x))

/-- `SHL Vx` (R131): `Vx` in place, the field `Y` is ignored (R72). -/
def execShl (x _y : Nibble) (s : State) : Result := .next (s.setFlagged x (highBitOf (s.getV x)) (s.getV x <<< 1))

/-- `RND Vx,NN` (R133): the step's input byte AND `NN`. -/
def execRnd (x : Nibble) (nn : Byte) (s : State) : Result := .next (s.setV x (s.rnd &&& nn))

end Sys2Proof.Machine
end

