-- ==== Sys2Proof/Machine/Control.lean ====
section
/-! DEFINITION. Control transfer (41_flow.md). Every meaning sees `pc = a + 2`, `a` the address of the instruction. -/

namespace Sys2Proof.Machine

/-- `RET` (R101). -/
def execRet (s : State) : Result :=
  if h : s.sp.val = 0 then .next (s.raise (.stackUnderflow s.instrAddr))
  else .next (s.pop.setPc (s.top h))

/-- `JP NNN` (R102). -/
def execJp (nnn : Addr) (s : State) : Result := .next (s.setPc (zextAddr nnn))

/-- `CALL NNN` (R103): pushes the address after the `CALL`. -/
def execCall (nnn : Addr) (s : State) : Result :=
  if h : s.sp.val < 16 then .next ((s.push s.pc h).setPc (zextAddr nnn))
  else .next (s.raise (.stackOverflow s.instrAddr))

/-- `JP V0,NNN` (R105). -/
def execJpV0 (nnn : Addr) (s : State) : Result := .next (s.setPc (s.indexedTarget nnn))

/-- `SE Vx,NN` (R106). -/
def execSeImm (x : Nibble) (nn : Byte) (s : State) : Result := .next (s.skipIf (s.getV x == nn))

/-- `SNE Vx,NN` (R107). -/
def execSneImm (x : Nibble) (nn : Byte) (s : State) : Result := .next (s.skipIf (s.getV x != nn))

/-- `SE Vx,Vy` (R108). -/
def execSeReg (x y : Nibble) (s : State) : Result := .next (s.skipIf (s.getV x == s.getV y))

/-- `SNE Vx,Vy` (R109). -/
def execSneReg (x y : Nibble) (s : State) : Result := .next (s.skipIf (s.getV x != s.getV y))

end Sys2Proof.Machine
end

