-- ==== Sys2Proof/Machine/Display.lean ====
section
/-! DEFINITION. The display instructions and the collision detector (44_display.md). -/

namespace Sys2Proof.Machine

/-- A drawing under way: the framebuffer so far, and whether a collision has happened. -/
structure Canvas where
  fb : Frame
  hit : Bool
deriving DecidableEq, Repr

/-- One sprite bit of 1 on pixel `(x, y)` (R151, R152): a pixel that is on collides, and the pixel is flipped. -/
def Canvas.flip (c : Canvas) (x : Fin 64) (y : Fin 32) : Canvas :=
  ⟨c.fb.put x y (!c.fb.get x y), c.hit || c.fb.get x y⟩

/-- The column a sprite's column `col` falls on: `(vx + col) mod 64` (R151). -/
def pixelX (vx : Byte) (col : Nat) : Fin 64 := Fin.ofNat 64 (vx.toNat + col)

/-- The row a sprite's row falls on: `(vy + row) mod 32` (R151). -/
def pixelY (vy : Byte) (row : Nat) : Fin 32 := Fin.ofNat 32 (vy.toNat + row)

/-- Columns 0 to `n - 1` of one sprite row with byte `b`, most significant bit leftmost (R151). -/
def drawCols (vx : Byte) (y : Fin 32) (b : Byte) : Nat → Canvas → Canvas
  | 0, c => c
  | n + 1, c =>
    let c' := drawCols vx y b n c
    if b.getLsbD (7 - n) then c'.flip (pixelX vx n) y else c'

/-- Rows 0 to `n - 1` of the sprite at address `base` (R151). -/
def drawRows (m : Memory) (base : Nat) (vx vy : Byte) : Nat → Canvas → Canvas
  | 0, c => c
  | n + 1, c => drawCols vx (pixelY vy n) (m.read (base + n)) 8 (drawRows m base vx vy n c)

/-- The whole sprite on the state's framebuffer, no collision yet: `VF` is reset before drawing (R151). -/
def State.draw (s : State) (vx vy : Byte) (n : Nibble) : Canvas :=
  drawRows s.mem s.base vx vy n.toNat ⟨s.fb, false⟩

/-- `CLS` (R150). -/
def execCls (s : State) : Result := .next (s.present Frame.blank)

/-- `DRW Vx,Vy,N` (R151): the coordinates are read before `VF` is written (R85). -/
def execDrw (x y n : Nibble) (s : State) : Result :=
  s.guardMem n.toNat
    (let c := s.draw (s.getV x) (s.getV y) n
     (s.setV regF (flagByte c.hit)).present c.fb)

end Sys2Proof.Machine
end

