-- ==== Sys2Proof/Machine/IndexMem.lean ====
section
/-! DEFINITION. The index register and the memory instructions (43_index_memory.md). `I` is changed by no load or
store (R140). -/

namespace Sys2Proof.Machine

/-- `LD I,NNN` (R141). -/
def execLdI (nnn : Addr) (s : State) : Result := .next (s.setI (zextAddr nnn))

/-- `ADD I,Vx` (R142): modulo 65536, no flag, no range check. -/
def execAddI (x : Nibble) (s : State) : Result := .next (s.setI (s.i + zextByte (s.getV x)))

/-- `LD F,Vx` (R143). -/
def execLdF (x : Nibble) (s : State) : Result := .next (s.setI (fontAddress (s.getV x)))

/-- `LD B,Vx` (R144). -/
def execLdB (x : Nibble) (s : State) : Result := s.guardMem 3 (s.storeAll s.base (bcdDigits (s.getV x)))

/-- `LD [I],Vx` (R145). -/
def execStoreRegs (x : Nibble) (s : State) : Result :=
  s.guardMem (regCount x) (s.storeAll s.base (s.regsUpTo x))

/-- `LD Vx,[I]` (R146). -/
def execLoadRegs (x : Nibble) (s : State) : Result := s.guardMem (regCount x) (s.loadRegs x)

end Sys2Proof.Machine
end

