-- ==== Sys2Proof/Machine/Keypad.lean ====
section
/-! DEFINITION. The keypad skips and the timer accesses (45_keypad_timers.md). -/

namespace Sys2Proof.Machine

/-- `SKP Vx` (R161). -/
def execSkp (x : Nibble) (s : State) : Result := s.guardKey (s.getV x) (fun down => s.skipIf down)

/-- `SKNP Vx` (R162). -/
def execSknp (x : Nibble) (s : State) : Result := s.guardKey (s.getV x) (fun down => s.skipIf (!down))

/-- `LD Vx,DT` (R163): the value before this step's tick. -/
def execLdVxDt (x : Nibble) (s : State) : Result := .next (s.setV x s.dt)

/-- `LD DT,Vx` (R164): the tick of the same step follows. -/
def execLdDtVx (x : Nibble) (s : State) : Result := .next (s.setDt (s.getV x))

/-- `LD ST,Vx` (R165): the tick of the same step follows. -/
def execLdStVx (x : Nibble) (s : State) : Result := .next (s.setSt (s.getV x))

end Sys2Proof.Machine
end

