-- ==== Sys2Proof/Machine/Reserved.lean ====
section
/-! DEFINITION. The reserved rows: unknown words (30_encoding.md R69 to R71). Executing one reports `UNKNOWN_OPCODE`
with the word and changes nothing else; `pc` keeps the fetch's `a + 2` and the timers tick (40_step_cycle.md R87). -/

namespace Sys2Proof.Machine

/-- The effect of an unknown word (R87). -/
def State.unknownWord (s : State) (w : Word) : State := s.raise (.unknownOpcode w)

/-- `0NNN` other than `00E0` and `00EE` (R71). -/
def execSys (nnn : Addr) (s : State) : Result := .next (s.unknownWord (encode (.sys nnn)))

/-- `FX0A` (R70, R166). -/
def execLdVxK (x : Nibble) (s : State) : Result := .next (s.unknownWord (encode (.ldVxK x)))

/-- Every other unknown word (R69). -/
def execUnknown (w : Word) (s : State) : Result := .next (s.unknownWord w)

end Sys2Proof.Machine
end

