-- ==== Sys2Proof/Machine/Cycle.lean ====
section
/-! DEFINITION. The step (40_step_cycle.md R80, R81): fetch, decode, execute, timer tick. -/

namespace Sys2Proof.Machine

/-- `step(rnd)` of R81: one whole instruction, whichever it is; State holds no clock and no rule depends on time
(70_reset_and_hazards.md R211). For the byte `rnd` the host supplies. A rejected fetch leaves `pc` and skips decode and
execute; the timers tick and the report is logged on every path (R82, R86). -/
def cycle (rnd : Byte) (s : State) : Result :=
  let b := s.begin rnd
  match b.fetch with
  | none => .next (b.raise (.fetchRange b.pc)).finish
  | some w => finishResult (exec (decodeWord w) b.advancePc)

/-- One step, its random byte drawn from the source outside the block (R27): a free value, fresh at every draw. -/
def drawnCycle (s : State) : Result := cycle (Config.rnd s.draws) s.countDraw

/-- `w`'s two bytes stored where the next fetch reads (R43); bits above `nbits` are 0. -/
def State.placeWord (s : State) (nbits w : Nat) : State :=
  s.storeAll s.pc.toNat (wordBytes (BitVec.ofNat 16 (w % 2 ^ nbits)))

end Sys2Proof.Machine
end

