-- ==== Sys2Proof/Machine/Step.lean ====
section
/-! DEFINITION. The machine's one transition (40_step_cycle.md R80). -/

namespace Sys2Proof.Machine

/-- One step (R80, R81). -/
def step (s : State) : Host.Outcome State Fault Refusal := drawnCycle s

/-- The state with an instruction stored where step fetches next; it stands for the host's load (log 9). -/
def State.withFetchWord (s : State) (nbits w : Nat) : State := s.placeWord nbits w

end Sys2Proof.Machine
end

