-- ==== Sys2Proof/Machine/Boundary.lean ====
section
/-! DEFINITION. The boundary of the block: the host's transactions (10_state.md R28, R29; 70_reset_and_hazards.md R200
to R207). The host makes one at a time and only between steps (20_memory.md R52), so each is a function of the
state. -/

namespace Sys2Proof.Machine

/-- `initialize()` with its parameter FONT (R200, R202): every piece of state at its reset value. The random source is
outside the block, so its counter goes on (R27; log 2). -/
def State.initializeBlock (s : State) (font : Font) : State :=
  { State.reset with mem := Memory.writeAll [] 0 font.toList, draws := s.draws }

/-- Why a load fails (60_exceptions.md R174). -/
inductive LoadError where
  /-- `LOAD_SIZE`: the image does not fit (R203). Raised by `loadProgram`, answered to its caller; no step meets it.
  Safe: nothing is written. -/
  | loadSize
deriving DecidableEq, Repr

/-- The address the loader begins at, `PROG_BASE` (R3). -/
def progBase : Nat := 0x200

/-- `loadProgram(bytes)` (R203): the whole image from 0x200 on, or LOAD_SIZE and nothing written. -/
def State.loadProgram (s : State) (bytes : List Byte) : Except LoadError State :=
  if progBase + bytes.length > 4096 then .error .loadSize else .ok (s.storeAll progBase bytes)

/-- `setKey(k, b)` (R22, R206). -/
def State.setKey (s : State) (k : Nibble) (down : Bool) : State := { s with key := s.key.set k.toNat down k.isLt }

/-- `readFrame()` (R28): the draw-flag and the framebuffer; nothing changes. -/
def State.readFrame (s : State) : Bool × Frame := (s.df, s.fb)

/-- `ackFrame()` (R207): the host clears the draw-flag. -/
def State.ackFrame (s : State) : State := { s with df := false }

/-- The transactions of R28. Inspection, which changes nothing, is reading a field of State. -/
inductive Transaction where
  | initializeBlock (font : Font)
  | loadProgram (bytes : List Byte)
  | setKey (k : Nibble) (down : Bool)
  | step (rnd : Byte)
  | readFrame
  | ackFrame
deriving DecidableEq, Repr

/-- What a transaction answers the host. -/
inductive Response where
  | done
  | loaded
  | loadFailed (e : LoadError)
  | stepped (r : Report)
  | frame (df : Bool) (fb : Frame)
deriving DecidableEq, Repr

/-- A loader's answer as a transaction's: a failed load leaves the state (R174, R203). -/
def loadAnswer (s : State) : Except LoadError State → State × Response
  | .ok t => (t, .loaded)
  | .error e => (s, .loadFailed e)

/-- A step's answer as a transaction's: the state and the report (R81). -/
def stepAnswer : Result → Host.Outcome (State × Response) Fault Refusal
  | .next t => .next (t, .stepped t.report)
  | .fault r => .fault r
  | .refused r => .refused r

/-- One transaction of the host (R28). -/
def perform (a : Transaction) (s : State) : Host.Outcome (State × Response) Fault Refusal :=
  match a with
  | .initializeBlock font => .next (s.initializeBlock font, .done)
  | .loadProgram bytes => .next (loadAnswer s (s.loadProgram bytes))
  | .setKey k down => .next (s.setKey k down, .done)
  | .step rnd => stepAnswer (cycle rnd s)
  | .readFrame => .next (s, .frame s.df s.fb)
  | .ackFrame => .next (s.ackFrame, .done)

end Sys2Proof.Machine
end

