-- ==== Sys2Proof/Safety.lean ====
section
/-! DEFINITION. What claims are stated with: the invariant, a clean run, the order the host must keep. -/

namespace Sys2Proof.Machine

/-- What every step keeps: memory in canonical form, `pc` no greater than the largest value a defined operation puts
in it (10_state.md R14), no stack entry greater than the address after a `CALL` at 4094 (41_flow.md R103). -/
abbrev State.Inv (s : State) : Prop :=
  s.mem.wf ∧ s.pc.toNat ≤ 0x10FE ∧ ∀ k : Fin 16, (s.stack[k]).toNat ≤ 4096

/-- `n` steps from `s` lead to `t` and none of them reports (60_exceptions.md R175). -/
def CleanRun : Nat → State → State → Prop
  | 0, s, t => t = s
  | n + 1, s, t => ∃ u, step s = .next u ∧ u.report = .none ∧ CleanRun n u t

/-- The reports of the first `n` steps from `s`, in order (10_state.md R25). -/
def reports : Nat → State → List Report
  | 0, _ => []
  | n + 1, s =>
    match step s with
    | .next t => t.report :: reports n t
    | .fault _ => []
    | .refused _ => []

/-- The instruction the next step executes; none where its fetch is rejected (R82, R84). -/
def State.nextInstr (s : State) : Option Instr := s.fetch.map decodeWord

/-- One step is the whole of instruction `i` fetched in state `s` (70_reset_and_hazards.md R211): its execute phase, from
`pc` advanced, ends in some state, and the same step ends it. -/
def TakesOneStep (i : Instr) (s : State) : Prop :=
  ∃ u, exec i (s.countDraw.begin (Config.rnd s.draws)).advancePc = .next u ∧ step s = .next u.finish

/-- A sprite bit of 1 falls on pixel `(px, py)` when a sprite of `n` rows at `I` is drawn at `(vx, vy)`
(44_display.md R151): row byte `row` is at `I + row`, its bit `7 - col` is column `col`, both wrap. -/
def SpriteOn (s : State) (vx vy : Byte) (n : Nat) (px : Fin 64) (py : Fin 32) : Prop :=
  ∃ row col, row < n ∧ col < 8 ∧ px.val = (vx.toNat + col) % 64 ∧ py.val = (vy.toNat + row) % 32 ∧
    (s.mem.read (s.i.toNat + row)).getLsbD (7 - col) = true

/-- A sprite bit of 1 falls on a pixel that is on (R152). -/
def Collides (s : State) (vx vy : Byte) (n : Nat) : Prop :=
  ∃ px py, SpriteOn s vx vy n px py ∧ s.fb.get px py = true

/-- The value names a key, and the key is in state `down` (45_keypad_timers.md R161, R162). -/
abbrev KeyIs (s : State) (vx : Byte) (down : Bool) : Prop := ∃ h : vx.toNat < 16, s.key[vx.toNat] = down

/-- Where `pc` is after a step that executes `i` from state `s`, `s.pc` the address of the instruction
(10_state.md R15, the table's rows after the first). -/
def pcLaw (i : Instr) (s : State) : Word :=
  match i with
  | .cls => s.pc + 2#16
  | .ret => if h : s.sp.val ≠ 0 then s.stack[s.sp.val - 1]'(by omega) else s.pc + 2#16
  | .jp nnn => zextAddr nnn
  | .call nnn => if s.sp.val < 16 then zextAddr nnn else s.pc + 2#16
  | .seImm x nn => if s.getV x = nn then s.pc + 4#16 else s.pc + 2#16
  | .sneImm x nn => if s.getV x ≠ nn then s.pc + 4#16 else s.pc + 2#16
  | .seReg x y => if s.getV x = s.getV y then s.pc + 4#16 else s.pc + 2#16
  | .ldImm _ _ => s.pc + 2#16
  | .addImm _ _ => s.pc + 2#16
  | .ldReg _ _ => s.pc + 2#16
  | .orReg _ _ => s.pc + 2#16
  | .andReg _ _ => s.pc + 2#16
  | .xorReg _ _ => s.pc + 2#16
  | .addReg _ _ => s.pc + 2#16
  | .subReg _ _ => s.pc + 2#16
  | .shr _ _ => s.pc + 2#16
  | .subnReg _ _ => s.pc + 2#16
  | .shl _ _ => s.pc + 2#16
  | .sneReg x y => if s.getV x ≠ s.getV y then s.pc + 4#16 else s.pc + 2#16
  | .ldI _ => s.pc + 2#16
  | .jpV0 nnn => zextAddr nnn + zextByte (s.getV 0#4)
  | .rnd _ _ => s.pc + 2#16
  | .drw _ _ _ => s.pc + 2#16
  | .skp x => if KeyIs s (s.getV x) true then s.pc + 4#16 else s.pc + 2#16
  | .sknp x => if KeyIs s (s.getV x) false then s.pc + 4#16 else s.pc + 2#16
  | .ldVxDt _ => s.pc + 2#16
  | .ldDtVx _ => s.pc + 2#16
  | .ldStVx _ => s.pc + 2#16
  | .addI _ => s.pc + 2#16
  | .ldF _ => s.pc + 2#16
  | .ldB _ => s.pc + 2#16
  | .storeRegs _ => s.pc + 2#16
  | .loadRegs _ => s.pc + 2#16
  | .sys _ => s.pc + 2#16
  | .ldVxK _ => s.pc + 2#16
  | .unknown _ => s.pc + 2#16

/-- Register `r` is in the column "reads" of the table of 10_state.md R12. -/
def readsV (i : Instr) (r : Nibble) : Bool :=
  match i with
  | .cls => false
  | .ret => false
  | .jp _ => false
  | .call _ => false
  | .seImm x _ => r == x
  | .sneImm x _ => r == x
  | .seReg x y => r == x || r == y
  | .ldImm _ _ => false
  | .addImm x _ => r == x
  | .ldReg _ y => r == y
  | .orReg x y => r == x || r == y
  | .andReg x y => r == x || r == y
  | .xorReg x y => r == x || r == y
  | .addReg x y => r == x || r == y
  | .subReg x y => r == x || r == y
  | .shr x _ => r == x
  | .subnReg x y => r == x || r == y
  | .shl x _ => r == x
  | .sneReg x y => r == x || r == y
  | .ldI _ => false
  | .jpV0 _ => r == 0x0#4
  | .rnd _ _ => false
  | .drw x y _ => r == x || r == y
  | .skp x => r == x
  | .sknp x => r == x
  | .ldVxDt _ => false
  | .ldDtVx x => r == x
  | .ldStVx x => r == x
  | .addI x => r == x
  | .ldF x => r == x
  | .ldB x => r == x
  | .storeRegs x => decide (r ≤ x)
  | .loadRegs _ => false
  | .sys _ => false
  | .ldVxK _ => false
  | .unknown _ => false

/-- Register `r` is in the column "writes" of the table of 10_state.md R12. -/
def writesV (i : Instr) (r : Nibble) : Bool :=
  match i with
  | .cls => false
  | .ret => false
  | .jp _ => false
  | .call _ => false
  | .seImm _ _ => false
  | .sneImm _ _ => false
  | .seReg _ _ => false
  | .ldImm x _ => r == x
  | .addImm x _ => r == x
  | .ldReg x _ => r == x
  | .orReg x _ => r == x
  | .andReg x _ => r == x
  | .xorReg x _ => r == x
  | .addReg x _ => r == x || r == 0xF#4
  | .subReg x _ => r == x || r == 0xF#4
  | .shr x _ => r == x || r == 0xF#4
  | .subnReg x _ => r == x || r == 0xF#4
  | .shl x _ => r == x || r == 0xF#4
  | .sneReg _ _ => false
  | .ldI _ => false
  | .jpV0 _ => false
  | .rnd x _ => r == x
  | .drw _ _ _ => r == 0xF#4
  | .skp _ => false
  | .sknp _ => false
  | .ldVxDt x => r == x
  | .ldDtVx _ => false
  | .ldStVx _ => false
  | .addI _ => false
  | .ldF _ => false
  | .ldB _ => false
  | .storeRegs _ => false
  | .loadRegs x => decide (r ≤ x)
  | .sys _ => false
  | .ldVxK _ => false
  | .unknown _ => false

/-- What an instruction writes beside general registers and the report (10_state.md, "Summary of all state"). -/
inductive StateUse where
  /-- Nothing else: the register instructions (R120). -/
  | registers
  /-- `I` (R13). -/
  | index
  /-- `pc` and nothing else: jumps and skips (R104). -/
  | pcOnly
  /-- `pc`, `sp` and a stack entry (R16, R17). -/
  | call
  /-- `pc` and `sp` (R17). -/
  | ret
  /-- The framebuffer and the draw-flag (R20, R21). -/
  | screen
  /-- Memory (R23). -/
  | memory
  /-- `DT` (R18). -/
  | delay
  /-- `ST` (R19). -/
  | sound
  /-- Nothing at all: the unknown words (R87). -/
  | nothing
deriving DecidableEq, Repr

/-- The column "written by" of 10_state.md's summary, by instruction. -/
def stateUse (i : Instr) : StateUse :=
  match i with
  | .cls => .screen
  | .ret => .ret
  | .jp _ => .pcOnly
  | .call _ => .call
  | .seImm _ _ => .pcOnly
  | .sneImm _ _ => .pcOnly
  | .seReg _ _ => .pcOnly
  | .ldImm _ _ => .registers
  | .addImm _ _ => .registers
  | .ldReg _ _ => .registers
  | .orReg _ _ => .registers
  | .andReg _ _ => .registers
  | .xorReg _ _ => .registers
  | .addReg _ _ => .registers
  | .subReg _ _ => .registers
  | .shr _ _ => .registers
  | .subnReg _ _ => .registers
  | .shl _ _ => .registers
  | .sneReg _ _ => .pcOnly
  | .ldI _ => .index
  | .jpV0 _ => .pcOnly
  | .rnd _ _ => .registers
  | .drw _ _ _ => .screen
  | .skp _ => .pcOnly
  | .sknp _ => .pcOnly
  | .ldVxDt _ => .registers
  | .ldDtVx _ => .delay
  | .ldStVx _ => .sound
  | .addI _ => .index
  | .ldF _ => .index
  | .ldB _ => .memory
  | .storeRegs _ => .memory
  | .loadRegs _ => .registers
  | .sys _ => .nothing
  | .ldVxK _ => .nothing
  | .unknown _ => .nothing

/-- `MEM_RANGE` where one of `count` addresses from `I` is above 4095, with the lowest rejected address (R46, R170). -/
def memReport (s : State) (count : Nat) : Report :=
  if 0 < count ∧ s.i.toNat + count > 4096 then .memRange (BitVec.ofNat 16 (max s.i.toNat 4096)) else .none

/-- `KEY_RANGE` where a value names no key (R170). -/
def keyReport (vx : Byte) : Report := if vx.toNat > 15 then .keyRange vx else .none

/-- The report of an instruction executed from state `s`, `s.pc` its own address (60_exceptions.md R170). -/
def instrReport (i : Instr) (s : State) : Report :=
  match i with
  | .cls => .none
  | .ret => if s.sp.val = 0 then .stackUnderflow s.pc else .none
  | .jp _ => .none
  | .call _ => if s.sp.val = 16 then .stackOverflow s.pc else .none
  | .seImm _ _ => .none
  | .sneImm _ _ => .none
  | .seReg _ _ => .none
  | .ldImm _ _ => .none
  | .addImm _ _ => .none
  | .ldReg _ _ => .none
  | .orReg _ _ => .none
  | .andReg _ _ => .none
  | .xorReg _ _ => .none
  | .addReg _ _ => .none
  | .subReg _ _ => .none
  | .shr _ _ => .none
  | .subnReg _ _ => .none
  | .shl _ _ => .none
  | .sneReg _ _ => .none
  | .ldI _ => .none
  | .jpV0 _ => .none
  | .rnd _ _ => .none
  | .drw _ _ n => memReport s n.toNat
  | .skp x => keyReport (s.getV x)
  | .sknp x => keyReport (s.getV x)
  | .ldVxDt _ => .none
  | .ldDtVx _ => .none
  | .ldStVx _ => .none
  | .addI _ => .none
  | .ldF _ => .none
  | .ldB _ => memReport s 3
  | .storeRegs x => memReport s (x.toNat + 1)
  | .loadRegs x => memReport s (x.toNat + 1)
  | .sys nnn => .unknownOpcode (0x0#4 ++ nnn)
  | .ldVxK x => .unknownOpcode (0xF#4 ++ x ++ 0x0A#8)
  | .unknown w => .unknownOpcode w

/-- The report of the next step from `s` (R170, R176). -/
def stepReport (s : State) : Report :=
  match s.nextInstr with
  | none => .fetchRange s.pc
  | some i => instrReport i s

/-- How far the host is in the boot order of R204. -/
inductive HostPhase where
  | off
  | ready
  | loaded
deriving DecidableEq, Repr

/-- The order of R204 and R205: reset first, then one successful load, then steps; reset again at any time. A
transaction out of order has no place in a claim's run. -/
def HostPhase.after : HostPhase → Transaction → Option HostPhase
  | _, .initializeBlock _ => some .ready
  | .ready, .loadProgram bytes => some (if progBase + bytes.length > 4096 then .ready else .loaded)
  | .loaded, .step _ => some .loaded
  | .ready, .setKey _ _ => some .ready
  | .loaded, .setKey _ _ => some .loaded
  | .ready, .readFrame => some .ready
  | .loaded, .readFrame => some .loaded
  | .ready, .ackFrame => some .ready
  | .loaded, .ackFrame => some .loaded
  | .off, .loadProgram _ => none
  | .off, .setKey _ _ => none
  | .off, .step _ => none
  | .off, .readFrame => none
  | .off, .ackFrame => none
  | .ready, .step _ => none
  | .loaded, .loadProgram _ => none

/-- The transactions keep the boot order from phase `p` (R204, R205). -/
def HostOrder : HostPhase → List Transaction → Bool
  | _, [] => true
  | p, a :: rest =>
    match p.after a with
    | some q => HostOrder q rest
    | none => false

end Sys2Proof.Machine
end

