-- ==== Sys2Proof/Certificates/Slice0/Obligations.lean ====
section
/-! DEFINITION. The statements. In a statement about exec the state is the one the execute phase starts from: `pc`
already holds the address of the instruction plus 2 (40_step_cycle.md R82). "t = { s with f := t.f }" says that `t`
differs from `s` in field `f` at most. -/

open Sys2Proof Sys2Proof.Machine

/-! ## Register arithmetic and logic (42_alu.md) -/

/-- R121. -/
def Obligations.LoadImmediateSetsRegister : Prop :=
  ∀ (x : Nibble) (nn : Byte), decodeWord (0x6#4 ++ x ++ nn) = .ldImm x nn ∧
    ∀ s : State, ∃ t, exec (.ldImm x nn) s = .next t ∧ t = { s with v := t.v } ∧
      t.getV x = nn ∧ ∀ y, y ≠ x → t.getV y = s.getV y

/-- R122: no flag, whatever the sum. -/
def Obligations.AddImmediateWrapsAndSetsNoFlag : Prop :=
  ∀ (x : Nibble) (nn : Byte), decodeWord (0x7#4 ++ x ++ nn) = .addImm x nn ∧
    ∀ s : State, ∃ t, exec (.addImm x nn) s = .next t ∧ t = { s with v := t.v } ∧
      (t.getV x).toNat = ((s.getV x).toNat + nn.toNat) % 256 ∧ ∀ y, y ≠ x → t.getV y = s.getV y

/-- 42_alu.md LD Vx,Vy; the spec admits the instruction by its own decision D3 (log 5). -/
def Obligations.CopyRegister : Prop :=
  ∀ x y : Nibble, decodeWord (0x8#4 ++ x ++ y ++ 0x0#4) = .ldReg x y ∧
    ∀ s : State, ∃ t, exec (.ldReg x y) s = .next t ∧ t = { s with v := t.v } ∧
      t.getV x = s.getV y ∧ ∀ z, z ≠ x → t.getV z = s.getV z

/-- OR, AND and XOR, bit by bit; that they leave `VF` alone (unless it is the destination) is the spec's own
decision D15 (log 13). -/
def Obligations.LogicOperationsLeaveFlag : Prop :=
  ∀ (x y : Nibble) (s : State),
    (∃ t, exec (.orReg x y) s = .next t ∧ t = { s with v := t.v } ∧ (∀ z, z ≠ x → t.getV z = s.getV z) ∧
      ∀ k, (t.getV x).getLsbD k = ((s.getV x).getLsbD k || (s.getV y).getLsbD k)) ∧
    (∃ t, exec (.andReg x y) s = .next t ∧ t = { s with v := t.v } ∧ (∀ z, z ≠ x → t.getV z = s.getV z) ∧
      ∀ k, (t.getV x).getLsbD k = ((s.getV x).getLsbD k && (s.getV y).getLsbD k)) ∧
    (∃ t, exec (.xorReg x y) s = .next t ∧ t = { s with v := t.v } ∧ (∀ z, z ≠ x → t.getV z = s.getV z) ∧
      ∀ k, (t.getV x).getLsbD k = ((s.getV x).getLsbD k != (s.getV y).getLsbD k))

/-- R127: `VF` is the carry; with `x = 15` the result overwrites it. -/
def Obligations.AddRegistersSetsCarry : Prop :=
  ∀ x y : Nibble, decodeWord (0x8#4 ++ x ++ y ++ 0x4#4) = .addReg x y ∧
    ∀ s : State, ∃ t, exec (.addReg x y) s = .next t ∧ t = { s with v := t.v } ∧
      (t.getV x).toNat = ((s.getV x).toNat + (s.getV y).toNat) % 256 ∧
      (x ≠ 0xF#4 → t.getV 0xF#4 = if (s.getV x).toNat + (s.getV y).toNat > 255 then 1#8 else 0#8) ∧
      ∀ z, z ≠ x → z ≠ 0xF#4 → t.getV z = s.getV z

/-- R128: `VF` is 1 if and only if there is no borrow, equality included; with `x = 15` the result overwrites it. -/
def Obligations.SubtractSetsNoBorrow : Prop :=
  ∀ x y : Nibble, decodeWord (0x8#4 ++ x ++ y ++ 0x5#4) = .subReg x y ∧
    ∀ s : State, ∃ t, exec (.subReg x y) s = .next t ∧ t = { s with v := t.v } ∧
      (t.getV x).toNat = ((s.getV x).toNat + 256 - (s.getV y).toNat) % 256 ∧
      (x ≠ 0xF#4 → t.getV 0xF#4 = if (s.getV x).toNat ≥ (s.getV y).toNat then 1#8 else 0#8) ∧
      ∀ z, z ≠ x → z ≠ 0xF#4 → t.getV z = s.getV z

/-- R130: the operands of R128 exchanged, the destination still `Vx`. -/
def Obligations.ReversedSubtractSetsNoBorrow : Prop :=
  ∀ x y : Nibble, decodeWord (0x8#4 ++ x ++ y ++ 0x7#4) = .subnReg x y ∧
    ∀ s : State, ∃ t, exec (.subnReg x y) s = .next t ∧ t = { s with v := t.v } ∧
      (t.getV x).toNat = ((s.getV y).toNat + 256 - (s.getV x).toNat) % 256 ∧
      (x ≠ 0xF#4 → t.getV 0xF#4 = if (s.getV y).toNat ≥ (s.getV x).toNat then 1#8 else 0#8) ∧
      ∀ z, z ≠ x → z ≠ 0xF#4 → t.getV z = s.getV z

/-- SHR and SHL: `Vx` in place, the bit shifted out in `VF`, the field `Y` ignored; the source register is the spec's
own decision D14 (log 13). -/
def Obligations.ShiftsMoveBitIntoFlag : Prop :=
  ∀ (x y : Nibble) (s : State),
    (∃ t, exec (.shr x y) s = .next t ∧ t = { s with v := t.v } ∧
      (t.getV x).toNat = (s.getV x).toNat / 2 ∧
      (x ≠ 0xF#4 → (t.getV 0xF#4).toNat = (s.getV x).toNat % 2) ∧
      ∀ z, z ≠ x → z ≠ 0xF#4 → t.getV z = s.getV z) ∧
    (∃ t, exec (.shl x y) s = .next t ∧ t = { s with v := t.v } ∧
      (t.getV x).toNat = (s.getV x).toNat * 2 % 256 ∧
      (x ≠ 0xF#4 → (t.getV 0xF#4).toNat = (s.getV x).toNat / 128) ∧
      ∀ z, z ≠ x → z ≠ 0xF#4 → t.getV z = s.getV z)

/-- R133: for every value of the step's input byte, here the model's field `rnd` (log 2). -/
def Obligations.RandomByteIsMasked : Prop :=
  ∀ (x : Nibble) (nn : Byte), decodeWord (0xC#4 ++ x ++ nn) = .rnd x nn ∧
    ∀ s : State, ∃ t, exec (.rnd x nn) s = .next t ∧ t = { s with v := t.v } ∧
      t.getV x = s.rnd &&& nn ∧ t.getV x &&& ~~~nn = 0#8 ∧ ∀ y, y ≠ x → t.getV y = s.getV y

/-! ## Index register and memory (43_index_memory.md) -/

/-- R141. -/
def Obligations.LoadIndexAddress : Prop :=
  ∀ nnn : Addr, decodeWord (0xA#4 ++ nnn) = .ldI nnn ∧
    ∀ s : State, ∃ t, exec (.ldI nnn) s = .next t ∧ t = { s with i := t.i } ∧ t.i.toNat = nnn.toNat

/-- ADD I,Vx: modulo 65536 with no flag and no report, the spec's own decision D16 (log 13). -/
def Obligations.AddIndexWraps : Prop :=
  ∀ (x : Nibble) (s : State), ∃ t, exec (.addI x) s = .next t ∧ t = { s with i := t.i } ∧
    t.i.toNat = (s.i.toNat + (s.getV x).toNat) % 65536

/-- LD F,Vx: the whole byte counts, the spec's own decision D18 (log 13). -/
def Obligations.FontAddressIsFiveTimes : Prop :=
  ∀ (x : Nibble) (s : State), ∃ t, exec (.ldF x) s = .next t ∧ t = { s with i := t.i } ∧
    t.i.toNat = 5 * (s.getV x).toNat

/-- R144: the digits where the three addresses exist, else `MEM_RANGE` with the lowest rejected address and nothing
else. -/
def Obligations.DecimalDigitsStored : Prop :=
  ∀ x : Nibble, decodeWord (0xF#4 ++ x ++ 0x33#8) = .ldB x ∧
    ∀ s : State,
      (s.i.toNat + 2 ≤ 4095 → ∃ t, exec (.ldB x) s = .next t ∧ t = { s with mem := t.mem } ∧
        (t.mem.read s.i.toNat).toNat = (s.getV x).toNat / 100 ∧
        (t.mem.read (s.i.toNat + 1)).toNat = (s.getV x).toNat / 10 % 10 ∧
        (t.mem.read (s.i.toNat + 2)).toNat = (s.getV x).toNat % 10 ∧
        ∀ a, a < s.i.toNat ∨ s.i.toNat + 2 < a → t.mem.read a = s.mem.read a) ∧
      (s.i.toNat + 2 > 4095 → ∃ r : Word, r.toNat = max s.i.toNat 4096 ∧
        exec (.ldB x) s = .next { s with report := .memRange r })

/-- LD [I],Vx: `V0` to `Vx` at `I` to `I + x`, `I` unchanged (D17); rejected whole (D9); the spec's own decisions
(log 13). -/
def Obligations.RegisterDump : Prop :=
  ∀ (x : Nibble) (s : State),
    (s.i.toNat + x.toNat ≤ 4095 → ∃ t, exec (.storeRegs x) s = .next t ∧ t = { s with mem := t.mem } ∧
      (∀ y : Nibble, y ≤ x → t.mem.read (s.i.toNat + y.toNat) = s.getV y) ∧
      ∀ a, a < s.i.toNat ∨ s.i.toNat + x.toNat < a → t.mem.read a = s.mem.read a) ∧
    (s.i.toNat + x.toNat > 4095 → ∃ r : Word, r.toNat = max s.i.toNat 4096 ∧
      exec (.storeRegs x) s = .next { s with report := .memRange r })

/-- LD Vx,[I]: `V0` to `Vx` from `I` to `I + x`, `I` unchanged (D17); rejected whole (D9); the spec's own decisions
(log 13). -/
def Obligations.RegisterLoad : Prop :=
  ∀ (x : Nibble) (s : State),
    (s.i.toNat + x.toNat ≤ 4095 → ∃ t, exec (.loadRegs x) s = .next t ∧ t = { s with v := t.v } ∧
      (∀ y : Nibble, y ≤ x → t.getV y = s.mem.read (s.i.toNat + y.toNat)) ∧
      ∀ y : Nibble, x < y → t.getV y = s.getV y) ∧
    (s.i.toNat + x.toNat > 4095 → ∃ r : Word, r.toNat = max s.i.toNat 4096 ∧
      exec (.loadRegs x) s = .next { s with report := .memRange r })

/-- A fetch after a register dump sees the stored bytes (20_memory.md section 6; the spec marks the coherence as
derived): self-modifying code needs no fence. -/
def Obligations.FetchSeesStoredBytes : Prop :=
  ∀ (x y z : Nibble) (s t : State), s.i.toNat + x.toNat ≤ 4095 → z ≤ x → z.toNat = y.toNat + 1 →
    exec (.storeRegs x) s = .next t → s.pc.toNat = s.i.toNat + y.toNat →
    t.fetch = some (s.getV y ++ s.getV z)

/-! ## Display (44_display.md) -/

/-- R150. -/
def Obligations.ClearScreen : Prop :=
  decodeWord 0x00E0#16 = .cls ∧
    ∀ s : State, ∃ t, exec .cls s = .next t ∧ t = { s with fb := t.fb, df := true } ∧
      ∀ (x : Fin 64) (y : Fin 32), t.fb.get x y = false

/-- DRW where every sprite byte exists: exactly the pixels under a sprite bit of 1 change, `VF` is the collision, the
draw-flag is set. With `n = 0` no address is checked (D29), and the coordinates are read before `VF` is reset (D13):
the spec's own decisions (log 13). -/
def Obligations.DrawFlipsCoveredPixels : Prop :=
  ∀ (x y n : Nibble) (s : State), n = 0#4 ∨ s.i.toNat + n.toNat - 1 ≤ 4095 →
    ∃ t, exec (.drw x y n) s = .next t ∧ t = { s with v := t.v, fb := t.fb, df := true } ∧
      (∀ px py, t.fb.get px py ≠ s.fb.get px py ↔ SpriteOn s (s.getV x) (s.getV y) n.toNat px py) ∧
      (Collides s (s.getV x) (s.getV y) n.toNat → t.getV 0xF#4 = 1#8) ∧
      (¬ Collides s (s.getV x) (s.getV y) n.toNat → t.getV 0xF#4 = 0#8) ∧
      ∀ z, z ≠ 0xF#4 → t.getV z = s.getV z

/-- DRW where some sprite byte does not exist: nothing is drawn, `VF` and the draw-flag stand (decision D9,
log 13). -/
def Obligations.DrawRejectedWhole : Prop :=
  ∀ (x y n : Nibble) (s : State), n ≠ 0#4 → s.i.toNat + n.toNat - 1 > 4095 →
    ∃ r : Word, r.toNat = max s.i.toNat 4096 ∧ exec (.drw x y n) s = .next { s with report := .memRange r }

/-- The same draw twice restores the framebuffer (44_display.md section 3, consequence (c), which the spec marks as
derived). The spec's derived sentence on the second collision holds on a blank framebuffer and not on every one
(log 14): the second draw collides exactly when some pixel under a sprite bit of 1 was off before the first. -/
def Obligations.DrawTwiceRestoresFrame : Prop :=
  ∀ (x y n : Nibble) (s : State), x ≠ 0xF#4 → y ≠ 0xF#4 → (n = 0#4 ∨ s.i.toNat + n.toNat - 1 ≤ 4095) →
    ∃ t u, exec (.drw x y n) s = .next t ∧ exec (.drw x y n) t = .next u ∧ u.fb = s.fb ∧
      (u.getV 0xF#4 = 1#8 ↔
        ∃ px py, SpriteOn s (s.getV x) (s.getV y) n.toNat px py ∧ s.fb.get px py = false) ∧
      ((∀ px py, s.fb.get px py = false) →
        (u.getV 0xF#4 = 1#8 ↔ ∃ row, row < n.toNat ∧ s.mem.read (s.i.toNat + row) ≠ 0#8))

/-! ## Keypad and timers (45_keypad_timers.md) -/

/-- SKP and SKNP: the key is named by the value of `Vx`; a value above 15 is reported and not skipped on, the spec's
own decision D19 (log 13). -/
def Obligations.KeySkips : Prop :=
  ∀ (x : Nibble) (s : State),
    (∀ h : (s.getV x).toNat < 16,
      exec (.skp x) s = .next { s with pc := if s.key[(s.getV x).toNat] = true then s.pc + 2#16 else s.pc } ∧
      exec (.sknp x) s = .next { s with pc := if s.key[(s.getV x).toNat] = false then s.pc + 2#16 else s.pc }) ∧
    ((s.getV x).toNat > 15 →
      exec (.skp x) s = .next { s with report := .keyRange (s.getV x) } ∧
      exec (.sknp x) s = .next { s with report := .keyRange (s.getV x) })

/-- LD Vx,DT and LD DT,Vx in the execute phase, and in a whole step with the tick that follows (the spec marks the
step's values as derived). -/
def Obligations.DelayTimerAccess : Prop :=
  ∀ x : Nibble,
    (∀ s : State, (∃ t, exec (.ldVxDt x) s = .next t ∧ t = { s with v := t.v } ∧ t.getV x = s.dt ∧
        ∀ y, y ≠ x → t.getV y = s.getV y) ∧
      exec (.ldDtVx x) s = .next { s with dt := s.getV x }) ∧
    (∀ (s : State) (r : Byte), s.nextInstr = some (.ldVxDt x) → ∃ t, cycle r s = .next t ∧
      t.getV x = s.dt ∧ t.dt.toNat = s.dt.toNat - 1) ∧
    (∀ (s : State) (r : Byte), s.nextInstr = some (.ldDtVx x) → ∃ t, cycle r s = .next t ∧
      t.dt.toNat = (s.getV x).toNat - 1)

/-- R165, with the tick of the same step. -/
def Obligations.SoundTimerWrite : Prop :=
  ∀ x : Nibble, decodeWord (0xF#4 ++ x ++ 0x18#8) = .ldStVx x ∧
    (∀ s : State, exec (.ldStVx x) s = .next { s with st := s.getV x }) ∧
    ∀ (s : State) (r : Byte), s.nextInstr = some (.ldStVx x) → ∃ t, cycle r s = .next t ∧
      t.st.toNat = (s.getV x).toNat - 1

/-! ## Control transfer (41_flow.md) -/

/-- R102: the target is not checked here; the fetch after it reports one above 4094. -/
def Obligations.JumpSetsPc : Prop :=
  ∀ nnn : Addr, decodeWord (0x1#4 ++ nnn) = .jp nnn ∧
    ∀ s : State, ∃ t, exec (.jp nnn) s = .next t ∧ t = { s with pc := t.pc } ∧ t.pc.toNat = nnn.toNat ∧
      (nnn = 0xFFF#12 → ∃ u, step t = .next u ∧ u.report = .fetchRange 4095#16)

/-- R105: the sum is not reduced to 12 bits and never wraps; the fetch after it reports one above 4094. -/
def Obligations.IndexedJumpAddsV0 : Prop :=
  ∀ nnn : Addr, decodeWord (0xB#4 ++ nnn) = .jpV0 nnn ∧
    ∀ s : State, ∃ t, exec (.jpV0 nnn) s = .next t ∧ t = { s with pc := t.pc } ∧
      t.pc.toNat = nnn.toNat + (s.getV 0#4).toNat ∧ t.pc.toNat ≤ 0x10FE ∧
      (nnn.toNat + (s.getV 0#4).toNat > 4094 → ∃ u, step t = .next u ∧ u.report = .fetchRange t.pc)

/-- CALL: the address after it is pushed at `STACK[sp]`; at `sp = 16` it reports its own address and is not performed
(decisions D11 and D12, log 13). -/
def Obligations.CallPushesReturnAddress : Prop :=
  ∀ (nnn : Addr) (s : State),
    (s.sp.val < 16 → ∃ t, exec (.call nnn) s = .next t ∧
      t = { s with pc := t.pc, sp := t.sp, stack := t.stack } ∧ t.pc.toNat = nnn.toNat ∧
      t.sp.val = s.sp.val + 1 ∧ ∀ k : Fin 16, t.stack[k] = if k.val = s.sp.val then s.pc else s.stack[k]) ∧
    (s.sp.val = 16 → exec (.call nnn) s = .next { s with report := .stackOverflow (s.pc - 2#16) })

/-- RET: the entry below `sp` goes to `pc` and keeps its value; at `sp = 0` it reports its own address and is not
performed (decisions D11 and D12, log 13). -/
def Obligations.ReturnPopsStack : Prop :=
  ∀ s : State,
    (∀ k : Fin 16, s.sp.val = k.val + 1 → ∃ t, exec .ret s = .next t ∧ t = { s with pc := t.pc, sp := t.sp } ∧
      t.pc = s.stack[k] ∧ t.sp.val = k.val) ∧
    (s.sp.val = 0 → exec .ret s = .next { s with report := .stackUnderflow (s.pc - 2#16) })

/-- A CALL, then anything that leaves the stack and `sp` as the CALL left them, then RET: execution is again at the
instruction after the CALL, at the CALL's depth. -/
def Obligations.CallThenReturn : Prop :=
  ∀ (nnn : Addr) (s : State), s.sp.val < 16 → ∃ t, exec (.call nnn) s = .next t ∧
    ∀ u : State, u.stack = t.stack → u.sp = t.sp →
      ∃ w, exec .ret u = .next w ∧ w.pc = s.pc ∧ w.sp = s.sp

/-- R106 and R107; a skip taken at 4094 leaves 4098, which the next fetch reports. -/
def Obligations.SkipOnImmediate : Prop :=
  ∀ (x : Nibble) (nn : Byte),
    decodeWord (0x3#4 ++ x ++ nn) = .seImm x nn ∧ decodeWord (0x4#4 ++ x ++ nn) = .sneImm x nn ∧
    ∀ s : State,
      exec (.seImm x nn) s = .next { s with pc := if s.getV x = nn then s.pc + 2#16 else s.pc } ∧
      exec (.sneImm x nn) s = .next { s with pc := if s.getV x ≠ nn then s.pc + 2#16 else s.pc } ∧
      (s.pc = 4096#16 → ∃ u, step { s with pc := s.pc + 2#16 } = .next u ∧ u.report = .fetchRange 4098#16)

/-- R108 and R109: with any other low nibble the word is unknown. -/
def Obligations.SkipOnRegister : Prop :=
  ∀ x y : Nibble,
    decodeWord (0x5#4 ++ x ++ y ++ 0x0#4) = .seReg x y ∧ decodeWord (0x9#4 ++ x ++ y ++ 0x0#4) = .sneReg x y ∧
    (∀ n : Nibble, n ≠ 0x0#4 →
      decodeWord (0x5#4 ++ x ++ y ++ n) = .unknown (0x5#4 ++ x ++ y ++ n) ∧
      decodeWord (0x9#4 ++ x ++ y ++ n) = .unknown (0x9#4 ++ x ++ y ++ n)) ∧
    ∀ s : State,
      exec (.seReg x y) s = .next { s with pc := if s.getV x = s.getV y then s.pc + 2#16 else s.pc } ∧
      exec (.sneReg x y) s = .next { s with pc := if s.getV x ≠ s.getV y then s.pc + 2#16 else s.pc }

/-! ## Unknown words -/

/-- The three reserved rows report the word and change nothing else in the execute phase (decisions D4, D5, D7,
log 12). -/
def Obligations.ReservedWordsOnlyReport : Prop :=
  ∀ s : State,
    (∀ nnn : Addr, exec (.sys nnn) s = .next { s with report := .unknownOpcode (0x0#4 ++ nnn) }) ∧
    (∀ x : Nibble, exec (.ldVxK x) s = .next { s with report := .unknownOpcode (0xF#4 ++ x ++ 0x0A#8) }) ∧
    (∀ w : Word, exec (.unknown w) s = .next { s with report := .unknownOpcode w })

/-! ## The step (40_step_cycle.md) -/

/-- A step runs the decoded instruction: on the state with `pc` advanced, no report, and the drawn byte; then both
timers tick and the report is logged (R81). The model's own fields are `report` (log 1), `rnd` and `draws` (log 2). -/
def Obligations.StepRunsDecodedInstruction : Prop :=
  ∀ (s t : State) (i : Instr), s.pc.toNat ≤ 4094 →
    decode [s.mem.read s.pc.toNat, s.mem.read (s.pc.toNat + 1)] = .ok (i, []) →
    exec i { s with pc := s.pc + 2#16, report := .none, rnd := Config.rnd s.draws, draws := s.draws + 1 } = .next t →
    step s = .next { t with
      dt := if t.dt = 0#8 then 0#8 else t.dt - 1#8,
      st := if t.st = 0#8 then 0#8 else t.st - 1#8,
      esr := t.esr ||| t.report.esrBit }

/-- A rejected fetch: `pc` stands, nothing is decoded or executed, the timers tick, `FETCH_RANGE` is reported
(decision D10, log 13). -/
def Obligations.RejectedFetchOnlyReports : Prop :=
  ∀ s : State, s.pc.toNat > 4094 →
    step s = .next { s with
      dt := if s.dt = 0#8 then 0#8 else s.dt - 1#8,
      st := if s.st = 0#8 then 0#8 else s.st - 1#8,
      esr := s.esr ||| 0x10#6,
      report := .fetchRange s.pc, rnd := Config.rnd s.draws, draws := s.draws + 1 }

/-- 20_memory.md R43. -/
def Obligations.FetchIsBigEndian : Prop :=
  ∀ s : State, s.pc.toNat ≤ 4094 → ∃ w, s.fetch = some w ∧
    w.toNat = (s.mem.read s.pc.toNat).toNat * 256 + (s.mem.read (s.pc.toNat + 1)).toNat

/-- Nothing is fatal: every instruction and every step answers a next state. -/
def Obligations.EveryStepAnswersNextState : Prop :=
  (∀ (i : Instr) (s : State), ∃ t, exec i s = .next t) ∧
  (∀ (r : Byte) (s : State), ∃ t, cycle r s = .next t) ∧ ∀ s : State, ∃ t, step s = .next t

/-- The law of `pc` over one step, the case table of 10_state.md section 3 (pcLaw); its first row is decision D10
(log 13). -/
def Obligations.PcLawOverOneStep : Prop :=
  ∀ s t : State, step s = .next t →
    (s.nextInstr = none → t.pc = s.pc) ∧ ∀ i, s.nextInstr = some i → t.pc = pcLaw i s

/-- R12, both columns: an instruction leaves every register outside "writes" alone, and what it does depends on no
register outside "reads": from two states that differ in registers alone and agree on those it reads, it does the
same, and where it reports nothing it leaves the same values in the registers it writes. -/
def Obligations.RegisterUseTable : Prop :=
  (∀ (i : Instr) (s t : State), exec i s = .next t → ∀ r, writesV i r = false → t.getV r = s.getV r) ∧
  ∀ (i : Instr) (s s' t t' : State), s' = { s with v := s'.v } →
    (∀ r, readsV i r = true → s'.getV r = s.getV r) →
    exec i s = .next t → exec i s' = .next t' →
    t' = { t with v := t'.v } ∧
    (s.report = .none → t.report = .none → ∀ r, writesV i r = true → t'.getV r = t.getV r)

/-- Which instruction changes which other state (10_state.md, "Summary of all state"): `KEY`, `ESR` and the model's
inputs by none. -/
def Obligations.StateUseTable : Prop :=
  ∀ (i : Instr) (s t : State), exec i s = .next t →
    (stateUse i ≠ .index → t.i = s.i) ∧
    (stateUse i ≠ .pcOnly → stateUse i ≠ .call → stateUse i ≠ .ret → t.pc = s.pc) ∧
    (stateUse i ≠ .call → t.stack = s.stack) ∧ (stateUse i ≠ .call → stateUse i ≠ .ret → t.sp = s.sp) ∧
    (stateUse i ≠ .delay → t.dt = s.dt) ∧ (stateUse i ≠ .sound → t.st = s.st) ∧
    (stateUse i ≠ .screen → t.fb = s.fb ∧ t.df = s.df) ∧ (stateUse i ≠ .memory → t.mem = s.mem) ∧
    t.key = s.key ∧ t.esr = s.esr ∧ t.rnd = s.rnd ∧ t.draws = s.draws

/-- Both timers tick in every step that does not write them, a rejected fetch and a reporting step included
(decision D28, log 13). -/
def Obligations.TimersTickEveryStep : Prop :=
  ∀ s t : State, step s = .next t →
    ((∀ x, s.nextInstr ≠ some (.ldDtVx x)) → t.dt.toNat = s.dt.toNat - 1) ∧
    ((∀ x, s.nextInstr ≠ some (.ldStVx x)) → t.st.toNat = s.st.toNat - 1)

/-- "After N step() calls with no timer-affecting instructions, delay/sound timers each decrease by min(N, their
original value)": from any state, over any number of steps none of which writes a timer. -/
def Obligations.TimersDecayOverRun : Prop :=
  ∀ (n : Nat) (s t : State), Host.Core.run core n s = .next t →
    (∀ k u, k < n → Host.Core.run core k s = .next u →
      ∀ x, u.nextInstr ≠ some (.ldDtVx x) ∧ u.nextInstr ≠ some (.ldStVx x)) →
    t.dt.toNat = s.dt.toNat - min n s.dt.toNat ∧ t.st.toNat = s.st.toNat - min n s.st.toNat

/-- `ESR` after any run is `ESR` before it and, at bit `k`, whether some step of the run returned code `k + 1`
(10_state.md section 9; the register is the spec's own, D21): no step clears a bit, each reporting step sets its
own. -/
def Obligations.EsrRecordsReportsOfRun : Prop :=
  ∀ (n : Nat) (s t : State), Host.Core.run core n s = .next t →
    ∀ k, k < 6 → t.esr.getLsbD k = (s.esr.getLsbD k || (reports n s).any (fun r => r.code == k + 1))

/-- R173: a step that reports leaves the state as it was but for `pc + 2`, the tick and the `ESR` bit; a rejected
fetch the same without the advance. `report`, `rnd` and `draws` are the model's own fields (log 1, log 2). -/
def Obligations.ReportsArePrecise : Prop :=
  ∀ s t : State, step s = .next t → t.report ≠ .none →
    t = { s with
      pc := if t.report.code = 5 then s.pc else s.pc + 2#16,
      dt := if s.dt = 0#8 then 0#8 else s.dt - 1#8,
      st := if s.st = 0#8 then 0#8 else s.st - 1#8,
      esr := s.esr ||| (1#6 <<< (t.report.code - 1)),
      report := t.report, rnd := Config.rnd s.draws, draws := s.draws + 1 }

/-- R170: the report a step returns is exactly the one the table's conditions give (stepReport), with its information
word, and the codes are the table's. -/
def Obligations.StepReportsTableConditions : Prop :=
  (∀ s t : State, step s = .next t → t.report = stepReport s) ∧
  (∀ w a k, Report.none.code = 0 ∧ (Report.unknownOpcode w).code = 1 ∧ (Report.stackOverflow a).code = 2 ∧
    (Report.stackUnderflow a).code = 3 ∧ (Report.memRange a).code = 4 ∧ (Report.fetchRange a).code = 5 ∧
    (Report.keyRange k).code = 6)

/-- `rnd` matters only in a step that executes RND: any other step does the same whatever byte is supplied. -/
def Obligations.RandomByteMattersOnlyForRnd : Prop :=
  ∀ (r q : Byte) (s t : State), (∀ x nn, s.nextInstr ≠ some (.rnd x nn)) →
    cycle r s = .next t → cycle q s = .next { t with rnd := q }

/-! ## The invariant -/

/-- Every step keeps the invariant: canonical memory, `pc` at most 0x10FE, stack entries at most 4096. -/
def Obligations.StepKeepsInvariant : Prop := ∀ s t : State, s.Inv → step s = .next t → t.Inv

/-- The invariant holds after reset. -/
def Obligations.ResetMeetsInvariant : Prop := State.reset.Inv

/-- Every transaction of the host keeps the invariant. -/
def Obligations.TransactionsKeepInvariant : Prop :=
  ∀ (a : Transaction) (s t : State) (r : Response), s.Inv → perform a s = .next (t, r) → t.Inv

/-! ## Reset, load and the host (70_reset_and_hazards.md) -/

/-- The values after reset. `KEY` (D25) and `ESR` (D21) are the spec's own decisions; the font bytes are its default
table (D24, log 3). -/
def Obligations.ResetValues : Prop :=
  (∀ x, State.reset.getV x = 0#8) ∧ State.reset.i = 0#16 ∧ State.reset.pc = 0x200#16 ∧
  (∀ k : Fin 16, State.reset.stack[k] = 0#16) ∧ State.reset.sp = 0 ∧ State.reset.dt = 0#8 ∧ State.reset.st = 0#8 ∧
  (∀ x y, State.reset.fb.get x y = false) ∧ State.reset.df = true ∧ (∀ k : Fin 16, State.reset.key[k] = false) ∧
  (∀ (a : Nat) (h : a < 80), State.reset.mem.read a = Config.defaultFont[a]) ∧
  (∀ a, 80 ≤ a → State.reset.mem.read a = 0#8) ∧ State.reset.esr = 0#6

/-- R201: a second reset gives the state the first gave, whatever came before (the counter of the random source apart,
which is outside the block), and a loaded program is gone. -/
def Obligations.InitializeTwiceIsOnce : Prop :=
  ∀ (font : Font) (s s' : State),
    (s.initializeBlock font).initializeBlock font = s.initializeBlock font ∧
    s'.initializeBlock font = { s.initializeBlock font with draws := s'.draws } ∧
    ∀ a, 80 ≤ a → (s.initializeBlock font).mem.read a = 0#8

/-- FONT is a parameter: `initialize` copies any 80 bytes to addresses 0 to 79, and with the default font it gives
State.reset. -/
def Obligations.InitializeCopiesFont : Prop :=
  (∀ (font : Font) (s : State) (a : Nat) (h : a < 80), (s.initializeBlock font).mem.read a = font[a]) ∧
  ∀ s : State, s.initializeBlock Config.defaultFont = { State.reset with draws := s.draws }

/-- loadProgram: an image of at most 3584 bytes goes to 0x200 and up and changes nothing else; a longer one fails
whole (decision D30). -/
def Obligations.LoadProgramWholeOrNothing : Prop :=
  ∀ (s : State) (bytes : List Byte),
    (bytes.length ≤ 3584 → ∃ t, perform (.loadProgram bytes) s = .next (t, .loaded) ∧ t = { s with mem := t.mem } ∧
      (∀ (k : Nat) (h : k < bytes.length), t.mem.read (0x200 + k) = bytes[k]) ∧
      ∀ a, a < 0x200 ∨ 0x200 + bytes.length ≤ a → t.mem.read a = s.mem.read a) ∧
    (bytes.length > 3584 → perform (.loadProgram bytes) s = .next (s, .loadFailed .loadSize))

/-! ## Encoding (30_encoding.md) -/

/-- Decoding the bytes of a well-formed instruction gives it back, and the rest of the bytes. -/
def Obligations.DecodeUndoesEncode : Prop :=
  ∀ (i : Instr) (rest : List Byte), WellFormed i = true → decode (encodeBytes i ++ rest) = .ok (i, rest)

/-- Every word decodes to a well-formed instruction whose encoding is that word: no bit is dropped. -/
def Obligations.EncodeUndoesDecode : Prop :=
  ∀ w : Word, WellFormed (decodeWord w) = true ∧ encode (decodeWord w) = w

/-- The decoder is the opcode table, rows tested in file order and the first match taken. -/
def Obligations.DecoderMeetsOpcodeTable : Prop :=
  ∀ w : Word, tableMnemonic w = some (decodeWord w).mnemonic

/-- No word matches two of the 33 defined rows. -/
def Obligations.DefinedRowsAreDisjoint : Prop :=
  definedRows.length = 33 ∧
  definedRows.Pairwise (fun p q => ∀ w : Word, ¬ (p.isMatch w = true ∧ q.isMatch w = true))

/-- Words of the test vectors and of the document (95_test_vectors.md), one or more of each family. -/
def Obligations.DecodeSampleWords : Prop :=
  decodeWord 0x00E0 = .cls ∧ decodeWord 0x1200 = .jp 0x200 ∧ decodeWord 0x220A = .call 0x20A ∧
  decodeWord 0x4208 = .sneImm 2 0x08 ∧ decodeWord 0x5341 = .unknown 0x5341 ∧ decodeWord 0x71FF = .addImm 1 0xFF ∧
  decodeWord 0x8014 = .addReg 0 1 ∧ decodeWord 0x8128 = .unknown 0x8128 ∧ decodeWord 0xD125 = .drw 1 2 5 ∧
  decodeWord 0xE59E = .skp 5 ∧ decodeWord 0xF265 = .loadRegs 2 ∧ decodeWord 0xF00A = .ldVxK 0 ∧
  decodeWord 0x0000 = .sys 0 ∧ decodeWord 0xFFFF = .unknown 0xFFFF

/-! ## Timing (70_reset_and_hazards.md section 5) -/

/-- Every instruction takes one step, and the step is the unit of time (R211): whatever word is fetched, one step is the
whole of its instruction; over `n` steps the count of steps, the model's own field `draws` (log 2), goes up by `n`. -/
def Obligations.EveryInstructionTakesOneStep : Prop :=
  (∀ (s : State) (i : Instr), s.nextInstr = some i → TakesOneStep i s) ∧
  ∀ (n : Nat) (s t : State), Host.Core.run core n s = .next t → t.draws = s.draws + n
end

