-- ==== Sys2Proof/Laws/Decode.lean ====
section
/-! SUPPORT. The fields of a word written from its parts, and a word as its fields (30_encoding.md R62). -/

namespace Sys2Proof

/-- Bits of an append above the lower part. -/
theorem extract_append_above {a b : Nat} (p : BitVec a) (q : BitVec b) (st len : Nat) (h : b ≤ st) :
    (p ++ q).extractLsb' st len = p.extractLsb' (st - b) len := by
  ext k hk
  have h1 : ¬ st + k < b := by omega
  have h2 : st + k - b = st - b + k := by omega
  simp [BitVec.getLsbD_append, h1, h2]

/-- The lower part of an append. -/
theorem extract_append_low {a b : Nat} (p : BitVec a) (q : BitVec b) : (p ++ q).extractLsb' 0 b = q := by
  ext k hk
  simp [BitVec.getLsbD_append, hk]

/-- Two adjacent fields are one. -/
theorem extract_glue {w : Nat} (p : BitVec w) (st k len : Nat) :
    p.extractLsb' (st + len) k ++ p.extractLsb' st len = p.extractLsb' st (k + len) :=
  BitVec.extractLsb'_append_extractLsb'_eq_extractLsb' rfl

/-- The upper part of an append. -/
theorem extract_append_high {a b : Nat} (p : BitVec a) (q : BitVec b) : (p ++ q).extractLsb' b a = p := by
  rw [extract_append_above p q b a (Nat.le_refl b), Nat.sub_self, BitVec.extractLsb'_eq_self]

/-! ## Formats XYS and XYN: four nibbles -/

@[simp] theorem fieldF_nibbles (f x y n : Nibble) : fieldF (f ++ x ++ y ++ n) = f :=
  (extract_append_above (f ++ x ++ y) n 12 4 (by decide)).trans
    ((extract_append_above (f ++ x) y 8 4 (by decide)).trans (extract_append_high f x))

@[simp] theorem fieldX_nibbles (f x y n : Nibble) : fieldX (f ++ x ++ y ++ n) = x :=
  (extract_append_above (f ++ x ++ y) n 8 4 (by decide)).trans
    ((extract_append_above (f ++ x) y 4 4 (by decide)).trans (extract_append_low f x))

@[simp] theorem fieldY_nibbles (f x y n : Nibble) : fieldY (f ++ x ++ y ++ n) = y :=
  (extract_append_above (f ++ x ++ y) n 4 4 (by decide)).trans (extract_append_low (f ++ x) y)

@[simp] theorem fieldN_nibbles (f x y n : Nibble) : fieldN (f ++ x ++ y ++ n) = n :=
  extract_append_low (f ++ x ++ y) n

/-! ## Formats XNN and XSS: two nibbles and a byte -/

@[simp] theorem fieldF_byte (f x : Nibble) (nn : Byte) : fieldF (f ++ x ++ nn) = f :=
  (extract_append_above (f ++ x) nn 12 4 (by decide)).trans (extract_append_high f x)

@[simp] theorem fieldX_byte (f x : Nibble) (nn : Byte) : fieldX (f ++ x ++ nn) = x :=
  (extract_append_above (f ++ x) nn 8 4 (by decide)).trans (extract_append_low f x)

@[simp] theorem fieldNN_byte (f x : Nibble) (nn : Byte) : fieldNN (f ++ x ++ nn) = nn :=
  extract_append_low (f ++ x) nn

/-! ## Format NNN: a nibble and an address -/

@[simp] theorem fieldF_addr (f : Nibble) (nnn : Addr) : fieldF (f ++ nnn) = f := extract_append_high f nnn

@[simp] theorem fieldNNN_addr (f : Nibble) (nnn : Addr) : fieldNNN (f ++ nnn) = nnn := extract_append_low f nnn

/-! ## A word from its fields -/

theorem word_of_nibbles (w : Word) : fieldF w ++ fieldX w ++ fieldY w ++ fieldN w = w :=
  calc fieldF w ++ fieldX w ++ fieldY w ++ fieldN w
      = w.extractLsb' 8 8 ++ fieldY w ++ fieldN w := by rw [← extract_glue w 8 4 4]; rfl
    _ = w.extractLsb' 4 12 ++ fieldN w := congrArg (· ++ fieldN w) (extract_glue w 4 8 4)
    _ = w.extractLsb' 0 16 := extract_glue w 0 12 4
    _ = w := BitVec.extractLsb'_eq_self

theorem word_of_byte (w : Word) : fieldF w ++ fieldX w ++ fieldNN w = w :=
  calc fieldF w ++ fieldX w ++ fieldNN w
      = w.extractLsb' 8 8 ++ fieldNN w := by rw [← extract_glue w 8 4 4]; rfl
    _ = w.extractLsb' 0 16 := extract_glue w 0 8 8
    _ = w := BitVec.extractLsb'_eq_self

theorem word_of_addr (w : Word) : fieldF w ++ fieldNNN w = w :=
  (extract_glue w 0 4 12).trans BitVec.extractLsb'_eq_self

/-! ## Matching a row of the opcode table -/

/-- Two appends are equal exactly when both parts are. -/
theorem append_inj {a b : Nat} (p q : BitVec a) (r s : BitVec b) : p ++ r = q ++ s ↔ p = q ∧ r = s := by
  constructor
  · intro h
    exact ⟨by rw [← extract_append_high p r, h, extract_append_high],
      by rw [← extract_append_low p r, h, extract_append_low]⟩
  · rintro ⟨rfl, rfl⟩; rfl

theorem nibbles_inj (f x y n f' x' y' n' : Nibble) :
    f ++ x ++ y ++ n = f' ++ x' ++ y' ++ n' ↔ f = f' ∧ x = x' ∧ y = y' ∧ n = n' := by
  rw [append_inj, append_inj, append_inj, and_assoc, and_assoc]

theorem and_nibbles (f x y n f' x' y' n' : Nibble) :
    (f ++ x ++ y ++ n) &&& (f' ++ x' ++ y' ++ n') = (f &&& f') ++ (x &&& x') ++ (y &&& y') ++ (n &&& n') := by
  rw [BitVec.and_append, BitVec.and_append, BitVec.and_append]

/-- A row's match, field by field (R62, R65). -/
theorem TableRow.isMatch_iff (r : TableRow) (w : Word) :
    r.isMatch w = true ↔
      fieldF w &&& fieldF r.mask = fieldF r.pattern ∧ fieldX w &&& fieldX r.mask = fieldX r.pattern ∧
      fieldY w &&& fieldY r.mask = fieldY r.pattern ∧ fieldN w &&& fieldN r.mask = fieldN r.pattern := by
  refine beq_iff_eq.trans (Iff.trans ?_ (nibbles_inj _ _ _ _ _ _ _ _))
  rw [← and_nibbles]
  iterate 3 rw [word_of_nibbles]

/-! ## The bytes of a word, and the unknown words -/

/-- The two bytes of a word join to the word (20_memory.md R43, 30_encoding.md R74). -/
theorem joinBytes_wordBytes (w : Word) : joinBytes (w.extractLsb' 8 8) (w.extractLsb' 0 8) = w :=
  (extract_glue w 0 8 8).trans BitVec.extractLsb'_eq_self

/-- Two bytes joined give those two bytes. -/
theorem wordBytes_joinBytes (hi lo : Byte) : wordBytes (joinBytes hi lo) = [hi, lo] := by
  simp only [wordBytes, joinBytes]
  rw [show (hi ++ lo).extractLsb' 8 8 = hi from extract_append_high hi lo,
    show (hi ++ lo).extractLsb' 0 8 = lo from extract_append_low hi lo]

@[simp] theorem wordBytes_length (w : Word) : (wordBytes w).length = 2 := rfl

/-- The selectors of family 8 that are unknown words (R69). -/
theorem decodeAlu_of_unmatched (w : Word) (x y n : Nibble) (h : (0x7#4 < n && n != 0xE#4) = true) :
    decodeAlu w x y n = .unknown w := by
  have hn : n ≠ 0x0#4 ∧ n ≠ 0x1#4 ∧ n ≠ 0x2#4 ∧ n ≠ 0x3#4 ∧ n ≠ 0x4#4 ∧ n ≠ 0x5#4 ∧ n ≠ 0x6#4 ∧ n ≠ 0x7#4 ∧
      n ≠ 0xE#4 := by revert n; decide
  simp [decodeAlu, hn]

/-- The selectors of family E that are unknown words (R69). -/
theorem decodeKeys_of_unmatched (w : Word) (x : Nibble) (nn : Byte) (h : (nn != 0x9E#8 && nn != 0xA1#8) = true) :
    decodeKeys w x nn = .unknown w := by
  simp only [Bool.and_eq_true, bne_iff_ne] at h
  simp [decodeKeys, h]

/-- The selectors of family F that are unknown words of the last row (R69). -/
theorem decodeMisc_of_unmatched (w : Word) (x : Nibble) (nn : Byte)
    (h : (nn != 0x0A#8 && !definedFSelector nn) = true) : decodeMisc w x nn = .unknown w := by
  simp only [definedFSelector, Bool.and_eq_true, bne_iff_ne, Bool.not_eq_true', Bool.or_eq_false_iff,
    beq_eq_false_iff_ne, and_assoc] at h
  simp [decodeMisc, h]

/-- A word that no row but the last matches decodes as unknown (R69). -/
theorem decodeWord_of_unmatched (w : Word) (h : unmatchedWord w = true) : decodeWord w = .unknown w := by
  have h' : (if fieldF w = 0x5#4 then fieldN w != 0x0#4
    else if fieldF w = 0x8#4 then 0x7#4 < fieldN w && fieldN w != 0xE#4
    else if fieldF w = 0x9#4 then fieldN w != 0x0#4
    else if fieldF w = 0xE#4 then fieldNN w != 0x9E#8 && fieldNN w != 0xA1#8
    else if fieldF w = 0xF#4 then fieldNN w != 0x0A#8 && !definedFSelector (fieldNN w)
    else false) = true := h
  unfold decodeWord
  split <;> rename_i hf
  case h_6 => rw [hf] at h'; simpa using h'
  case h_9 => rw [hf] at h'; exact decodeAlu_of_unmatched w _ _ _ (by simpa using h')
  case h_10 => rw [hf] at h'; simpa using h'
  case h_15 => rw [hf] at h'; exact decodeKeys_of_unmatched w _ _ (by simpa using h')
  case h_16 =>
    refine decodeMisc_of_unmatched w _ _ ?_
    have hF : fieldF w = 0xF#4 := by
      clear h h'
      generalize fieldF w = f at *
      revert f; decide
    rw [hF] at h'
    simpa using h'
  all_goals rw [hf] at h'; simp at h'

end Sys2Proof
end

