-- ==== Sys2Proof/Laws/Display.lean ====
section
/-! SUPPORT. The framebuffer and the drawing loops (44_display.md R151, R152): which pixels a drawing flips and when
it collides. -/

namespace Sys2Proof.Machine

@[simp] theorem Frame.get_put (f : Frame) (x x' : Fin 64) (y y' : Fin 32) (b : Bool) :
    (f.put x y b).get x' y' = if x' = x ∧ y' = y then b else f.get x' y' := by
  by_cases hx : x' = x
  · subst hx
    by_cases hy : y' = y
    · subst hy; simp [Frame.get, Frame.put]
    · have : y.val ≠ y'.val := fun e => hy (Fin.ext e.symm)
      simp [Frame.get, Frame.put, hy, this]
  · have : x.val ≠ x'.val := fun e => hx (Fin.ext e.symm)
    simp [Frame.get, Frame.put, hx, this]

/-- Two framebuffers with equal pixels are equal. -/
theorem Frame.ext_get {f g : Frame} (h : ∀ x y, f.get x y = g.get x y) : f = g := by
  apply Vector.ext
  intro x hx
  apply Vector.ext
  intro y hy
  exact h ⟨x, hx⟩ ⟨y, hy⟩

@[simp] theorem Frame.get_blank (x : Fin 64) (y : Fin 32) : Frame.blank.get x y = false := by
  simp [Frame.get, Frame.blank]

/-- The columns of one row: eight distinct ones (R151 corner case 7). -/
theorem pixelX_inj (vx : Byte) (i j : Nat) (hi : i < 64) (hj : j < 64) (h : pixelX vx i = pixelX vx j) : i = j := by
  have := congrArg Fin.val h
  simp [pixelX, Fin.ofNat] at this
  omega

/-- The rows of one drawing: at most fifteen distinct ones (R151 corner case 7). -/
theorem pixelY_inj (vy : Byte) (i j : Nat) (hi : i < 32) (hj : j < 32) (h : pixelY vy i = pixelY vy j) : i = j := by
  have := congrArg Fin.val h
  simp [pixelY, Fin.ofNat] at this
  omega

/-- The first `n` columns of a sprite row with byte `b` cover pixel column `x`. -/
def rowCovers (vx : Byte) (b : Byte) (n : Nat) (x : Fin 64) : Prop :=
  ∃ col, col < n ∧ b.getLsbD (7 - col) = true ∧ pixelX vx col = x

/-- The first `n` rows of the sprite at `base` cover pixel `(x, y)`. -/
def spriteCovers (m : Memory) (base : Nat) (vx vy : Byte) (n : Nat) (x : Fin 64) (y : Fin 32) : Prop :=
  ∃ row, row < n ∧ pixelY vy row = y ∧ rowCovers vx (m.read (base + row)) 8 x

open Classical in
/-- Drawing columns: the covered pixels of row `y` are flipped, the others unchanged, and the drawing collides if and
only if it had or a covered pixel was on. -/
theorem drawCols_spec (vx : Byte) (y : Fin 32) (b : Byte) (n : Nat) (hn : n ≤ 64) (c : Canvas) :
    (∀ x' y', (drawCols vx y b n c).fb.get x' y' =
      if y' = y ∧ rowCovers vx b n x' then !c.fb.get x' y' else c.fb.get x' y') ∧
    ((drawCols vx y b n c).hit = true ↔ c.hit = true ∨ ∃ x', rowCovers vx b n x' ∧ c.fb.get x' y = true) := by
  induction n with
  | zero => simp [drawCols, rowCovers]
  | succ n ih =>
    obtain ⟨ihf, ihh⟩ := ih (by omega)
    by_cases hb : b.getLsbD (7 - n) = true
    · have hcov : ∀ x', rowCovers vx b (n + 1) x' ↔ rowCovers vx b n x' ∨ x' = pixelX vx n := by
        intro x'
        constructor
        · rintro ⟨col, hc, h1, h2⟩
          by_cases e : col = n
          · subst e; exact .inr h2.symm
          · exact .inl ⟨col, by omega, h1, h2⟩
        · rintro (⟨col, hc, h1, h2⟩ | rfl)
          · exact ⟨col, by omega, h1, h2⟩
          · exact ⟨n, by omega, hb, rfl⟩
      have hfresh : ¬ rowCovers vx b n (pixelX vx n) := by
        rintro ⟨col, hc, _, h2⟩
        have := pixelX_inj vx col n (by omega) (by omega) h2
        omega
      constructor
      · intro x' y'
        simp only [drawCols, hb, if_true, Canvas.flip, Frame.get_put, ihf, hcov]
        by_cases hx : x' = pixelX vx n
        · subst hx; by_cases hy : y' = y
          · subst hy; simp [hfresh]
          · simp [hy]
        · simp [hx]
      · simp only [drawCols, hb, if_true, Canvas.flip, Bool.or_eq_true, ihh, ihf, hcov]
        constructor
        · rintro ((h | ⟨x', h1, h2⟩) | h)
          · exact .inl h
          · exact .inr ⟨x', .inl h1, h2⟩
          · exact .inr ⟨_, .inr rfl, by simpa [hfresh] using h⟩
        · rintro (h | ⟨x', h1 | rfl, h2⟩)
          · exact .inl (.inl h)
          · exact .inl (.inr ⟨x', h1, h2⟩)
          · exact .inr (by simpa [hfresh] using h2)
    · have hcov : ∀ x', rowCovers vx b (n + 1) x' ↔ rowCovers vx b n x' := by
        intro x'
        constructor
        · rintro ⟨col, hc, h1, h2⟩
          have : col ≠ n := by rintro rfl; exact hb h1
          exact ⟨col, by omega, h1, h2⟩
        · rintro ⟨col, hc, h1, h2⟩
          exact ⟨col, by omega, h1, h2⟩
      simp only [drawCols, hb, hcov]
      exact ⟨ihf, ihh⟩

open Classical in
/-- Drawing rows: the covered pixels are flipped, the others unchanged, and the drawing collides if and only if it had
or a covered pixel was on (R151, R152). -/
theorem drawRows_spec (m : Memory) (base : Nat) (vx vy : Byte) (n : Nat) (hn : n ≤ 32) (c : Canvas) :
    (∀ x y, (drawRows m base vx vy n c).fb.get x y =
      if spriteCovers m base vx vy n x y then !c.fb.get x y else c.fb.get x y) ∧
    ((drawRows m base vx vy n c).hit = true ↔
      c.hit = true ∨ ∃ x y, spriteCovers m base vx vy n x y ∧ c.fb.get x y = true) := by
  induction n with
  | zero => simp [drawRows, spriteCovers]
  | succ n ih =>
    obtain ⟨ihf, ihh⟩ := ih (by omega)
    obtain ⟨hf, hh⟩ := drawCols_spec vx (pixelY vy n) (m.read (base + n)) 8 (by decide) (drawRows m base vx vy n c)
    have hcov : ∀ x y, spriteCovers m base vx vy (n + 1) x y ↔
        spriteCovers m base vx vy n x y ∨ (y = pixelY vy n ∧ rowCovers vx (m.read (base + n)) 8 x) := by
      intro x y
      constructor
      · rintro ⟨row, hr, h1, h2⟩
        by_cases e : row = n
        · subst e; exact .inr ⟨h1.symm, h2⟩
        · exact .inl ⟨row, by omega, h1, h2⟩
      · rintro (⟨row, hr, h1, h2⟩ | ⟨rfl, h2⟩)
        · exact ⟨row, by omega, h1, h2⟩
        · exact ⟨n, by omega, rfl, h2⟩
    have hfresh : ∀ x, ¬ spriteCovers m base vx vy n x (pixelY vy n) := by
      rintro x ⟨row, hr, h1, _⟩
      have := pixelY_inj vy row n (by omega) (by omega) h1
      omega
    constructor
    · intro x y
      rw [drawRows, hf, ihf]
      by_cases hy : y = pixelY vy n
      · subst hy; simp [hcov, hfresh]
      · simp [hcov, hy]
    · rw [drawRows, hh, ihh]
      constructor
      · rintro ((h | ⟨x, y, h1, h2⟩) | ⟨x, h1, h2⟩)
        · exact .inl h
        · exact .inr ⟨x, y, (hcov x y).2 (.inl h1), h2⟩
        · refine .inr ⟨x, pixelY vy n, (hcov _ _).2 (.inr ⟨rfl, h1⟩), ?_⟩
          simpa [ihf, hfresh] using h2
      · rintro (h | ⟨x, y, h1, h2⟩)
        · exact .inl (.inl h)
        · rcases (hcov x y).1 h1 with h3 | ⟨rfl, h3⟩
          · exact .inl (.inr ⟨x, y, h3, h2⟩)
          · refine .inr ⟨x, h3, ?_⟩
            simpa [ihf, hfresh] using h2

end Sys2Proof.Machine
end

