-- ==== Sys2Proof/Laws/Exec.lean ====
section
/-! SUPPORT. One equation per instruction: the next state exec answers, in the named operations. Every later proof
about an instruction starts here and unfolds no meaning. -/

namespace Sys2Proof.Machine

/-- The answer of the memory guard as one next state. -/
theorem State.guardMem_eq (s : State) (count : Nat) (t : State) :
    s.guardMem count t =
      .next (if outOfRange s.base count then s.raise (.memRange (lowestRejected s.i)) else t) := by
  unfold State.guardMem
  split <;> rfl

/-- The answer of the keypad guard as one next state. -/
theorem State.guardKey_eq (s : State) (vx : Byte) (t : Bool → State) :
    s.guardKey vx t = .next (if h : vx.toNat < 16 then t s.key[vx.toNat] else s.raise (.keyRange vx)) := by
  unfold State.guardKey
  split <;> rfl

theorem exec_cls (s : State) :
    exec (.cls) s = .next (s.present Frame.blank) := rfl

theorem exec_ret (s : State) :
    exec (.ret) s = .next (if h : s.sp.val = 0 then s.raise (.stackUnderflow s.instrAddr) else s.pop.setPc (s.top h)) := by
  simp only [exec, execRet]
  split <;> rfl

theorem exec_jp (nnn : Addr) (s : State) :
    exec (.jp nnn) s = .next (s.setPc (zextAddr nnn)) := rfl

theorem exec_call (nnn : Addr) (s : State) :
    exec (.call nnn) s = .next (if h : s.sp.val < 16 then (s.push s.pc h).setPc (zextAddr nnn) else s.raise (.stackOverflow s.instrAddr)) := by
  simp only [exec, execCall]
  split <;> rfl

theorem exec_seImm (x : Nibble) (nn : Byte) (s : State) :
    exec (.seImm x nn) s = .next (s.skipIf (s.getV x == nn)) := rfl

theorem exec_sneImm (x : Nibble) (nn : Byte) (s : State) :
    exec (.sneImm x nn) s = .next (s.skipIf (s.getV x != nn)) := rfl

theorem exec_seReg (x : Nibble) (y : Nibble) (s : State) :
    exec (.seReg x y) s = .next (s.skipIf (s.getV x == s.getV y)) := rfl

theorem exec_ldImm (x : Nibble) (nn : Byte) (s : State) :
    exec (.ldImm x nn) s = .next (s.setV x nn) := rfl

theorem exec_addImm (x : Nibble) (nn : Byte) (s : State) :
    exec (.addImm x nn) s = .next (s.setV x (s.getV x + nn)) := rfl

theorem exec_ldReg (x : Nibble) (y : Nibble) (s : State) :
    exec (.ldReg x y) s = .next (s.setV x (s.getV y)) := rfl

theorem exec_orReg (x : Nibble) (y : Nibble) (s : State) :
    exec (.orReg x y) s = .next (s.setV x (s.getV x ||| s.getV y)) := rfl

theorem exec_andReg (x : Nibble) (y : Nibble) (s : State) :
    exec (.andReg x y) s = .next (s.setV x (s.getV x &&& s.getV y)) := rfl

theorem exec_xorReg (x : Nibble) (y : Nibble) (s : State) :
    exec (.xorReg x y) s = .next (s.setV x (s.getV x ^^^ s.getV y)) := rfl

theorem exec_addReg (x : Nibble) (y : Nibble) (s : State) :
    exec (.addReg x y) s = .next (s.setFlagged x (carryOf (s.getV x) (s.getV y)) (s.getV x + s.getV y)) := rfl

theorem exec_subReg (x : Nibble) (y : Nibble) (s : State) :
    exec (.subReg x y) s = .next (s.setFlagged x (noBorrowOf (s.getV x) (s.getV y)) (s.getV x - s.getV y)) := rfl

theorem exec_shr (x : Nibble) (y : Nibble) (s : State) :
    exec (.shr x y) s = .next (s.setFlagged x (lowBitOf (s.getV x)) (s.getV x >>> 1)) := rfl

theorem exec_subnReg (x : Nibble) (y : Nibble) (s : State) :
    exec (.subnReg x y) s = .next (s.setFlagged x (noBorrowOf (s.getV y) (s.getV x)) (s.getV y - s.getV x)) := rfl

theorem exec_shl (x : Nibble) (y : Nibble) (s : State) :
    exec (.shl x y) s = .next (s.setFlagged x (highBitOf (s.getV x)) (s.getV x <<< 1)) := rfl

theorem exec_sneReg (x : Nibble) (y : Nibble) (s : State) :
    exec (.sneReg x y) s = .next (s.skipIf (s.getV x != s.getV y)) := rfl

theorem exec_ldI (nnn : Addr) (s : State) :
    exec (.ldI nnn) s = .next (s.setI (zextAddr nnn)) := rfl

theorem exec_jpV0 (nnn : Addr) (s : State) :
    exec (.jpV0 nnn) s = .next (s.setPc (s.indexedTarget nnn)) := rfl

theorem exec_rnd (x : Nibble) (nn : Byte) (s : State) :
    exec (.rnd x nn) s = .next (s.setV x (s.rnd &&& nn)) := rfl

theorem exec_drw (x : Nibble) (y : Nibble) (n : Nibble) (s : State) :
    exec (.drw x y n) s = .next (if outOfRange s.base n.toNat then s.raise (.memRange (lowestRejected s.i)) else
      (s.setV regF (flagByte (s.draw (s.getV x) (s.getV y) n).hit)).present (s.draw (s.getV x) (s.getV y) n).fb) := s.guardMem_eq _ _

theorem exec_skp (x : Nibble) (s : State) :
    exec (.skp x) s = .next (if h : (s.getV x).toNat < 16 then s.skipIf s.key[(s.getV x).toNat] else s.raise (.keyRange (s.getV x))) := s.guardKey_eq _ _

theorem exec_sknp (x : Nibble) (s : State) :
    exec (.sknp x) s = .next (if h : (s.getV x).toNat < 16 then s.skipIf (!s.key[(s.getV x).toNat]) else s.raise (.keyRange (s.getV x))) := s.guardKey_eq _ (fun down => s.skipIf (!down))

theorem exec_ldVxDt (x : Nibble) (s : State) :
    exec (.ldVxDt x) s = .next (s.setV x s.dt) := rfl

theorem exec_ldDtVx (x : Nibble) (s : State) :
    exec (.ldDtVx x) s = .next (s.setDt (s.getV x)) := rfl

theorem exec_ldStVx (x : Nibble) (s : State) :
    exec (.ldStVx x) s = .next (s.setSt (s.getV x)) := rfl

theorem exec_addI (x : Nibble) (s : State) :
    exec (.addI x) s = .next (s.setI (s.i + zextByte (s.getV x))) := rfl

theorem exec_ldF (x : Nibble) (s : State) :
    exec (.ldF x) s = .next (s.setI (fontAddress (s.getV x))) := rfl

theorem exec_ldB (x : Nibble) (s : State) :
    exec (.ldB x) s = .next (if outOfRange s.base 3 then s.raise (.memRange (lowestRejected s.i)) else
      s.storeAll s.base (bcdDigits (s.getV x))) := s.guardMem_eq _ _

theorem exec_storeRegs (x : Nibble) (s : State) :
    exec (.storeRegs x) s = .next (if outOfRange s.base (regCount x) then s.raise (.memRange (lowestRejected s.i)) else
      s.storeAll s.base (s.regsUpTo x)) := s.guardMem_eq _ _

theorem exec_loadRegs (x : Nibble) (s : State) :
    exec (.loadRegs x) s = .next (if outOfRange s.base (regCount x) then s.raise (.memRange (lowestRejected s.i)) else
      s.loadRegs x) := s.guardMem_eq _ _

theorem exec_sys (nnn : Addr) (s : State) :
    exec (.sys nnn) s = .next (s.unknownWord (encode (.sys nnn))) := rfl

theorem exec_ldVxK (x : Nibble) (s : State) :
    exec (.ldVxK x) s = .next (s.unknownWord (encode (.ldVxK x))) := rfl

theorem exec_unknown (w : Word) (s : State) :
    exec (.unknown w) s = .next (s.unknownWord w) := rfl

end Sys2Proof.Machine
end

