-- ==== Sys2Proof/Laws/Memory.lean ====
section
/-! SUPPORT. Memory: what a read finds after a write, and that every operation keeps the canonical form
(20_memory.md R45, R50). -/

namespace Sys2Proof.Machine

@[simp] theorem Memory.read_nil (a : Nat) : Memory.read [] a = Memory.unlisted a := rfl

theorem Memory.read_cons (c : Host.Cell) (m : Memory) (a : Nat) :
    Memory.read (c :: m) a = if c.1 = a then c.2 else m.read a := rfl

/-- An erased address reads as unlisted; every other address reads as before. -/
theorem Memory.read_erase (m : Memory) (a b : Nat) :
    (m.erase a).read b = if b = a then Memory.unlisted a else m.read b := by
  induction m with
  | nil => by_cases h : b = a <;> simp [Memory.erase, h]
  | cons c m ih =>
    obtain ⟨k, u⟩ := c
    by_cases hk : k = a
    · subst hk
      by_cases hb : b = k
      · subst hb
        simpa [Memory.erase] using ih
      · simp [Memory.erase, ih, hb, Memory.read_cons, Ne.symm hb]
    · by_cases hb : b = a
      · subst hb
        simp [Memory.erase, hk, Memory.read_cons, ih]
      · simp [Memory.erase, hk, Memory.read_cons, ih, hb]

theorem Memory.mem_erase {m : Memory} {a : Nat} {c : Host.Cell} (h : c ∈ m.erase a) : c ∈ m ∧ c.1 ≠ a := by
  induction m with
  | nil => simp [Memory.erase] at h
  | cons d m ih =>
    by_cases hd : d.1 = a
    · simp only [Memory.erase, hd, if_true] at h
      exact ⟨List.mem_cons_of_mem _ (ih h).1, (ih h).2⟩
    · simp only [Memory.erase, hd, if_false, List.mem_cons] at h
      rcases h with rfl | h
      · exact ⟨List.mem_cons_self, hd⟩
      · exact ⟨List.mem_cons_of_mem _ (ih h).1, (ih h).2⟩

/-- An inserted address reads as the new byte where the list did not hold it; every other as before. -/
theorem Memory.read_insert (m : Memory) (a : Nat) (v : Byte) (b : Nat) (h : ∀ c ∈ m, c.1 ≠ a) :
    (m.insert a v).read b = if b = a then v else m.read b := by
  induction m with
  | nil => by_cases hb : b = a <;> simp [Memory.insert, Memory.read_cons, hb, Ne.symm]
  | cons c m ih =>
    have hc : c.1 ≠ a := h c List.mem_cons_self
    have ih := ih (fun d hd => h d (List.mem_cons_of_mem _ hd))
    by_cases hlt : a < c.1
    · by_cases hb : b = a <;> simp [Memory.insert, hlt, Memory.read_cons, hb]
      omega
    · by_cases hb : b = a
      · subst hb
        simp [Memory.insert, hlt, Memory.read_cons, ih, hc]
      · simp [Memory.insert, hlt, Memory.read_cons, ih, hb]

theorem Memory.mem_insert {m : Memory} {a : Nat} {v : Byte} {c : Host.Cell} (h : c ∈ m.insert a v) :
    c = (a, v) ∨ c ∈ m := by
  induction m with
  | nil => simpa [Memory.insert] using h
  | cons d m ih =>
    by_cases hlt : a < d.1
    · simpa [Memory.insert, hlt] using h
    · simp only [Memory.insert, hlt, if_false, List.mem_cons] at h ⊢
      rcases h with rfl | h
      · exact .inr (.inl rfl)
      · exact (ih h).imp id .inr

/-- After a write an existing address reads as the byte written, and every other address as before: a write changes
that one byte only (R50). No invariant is needed. -/
theorem Memory.read_write (m : Memory) (a : Nat) (v : Byte) (b : Nat) :
    (m.write a v).read b = if b = a ∧ a ≤ 4095 then v else m.read b := by
  unfold Memory.write
  by_cases ha : a ≤ 4095
  · by_cases hv : v = Memory.unlisted a
    · by_cases hb : b = a <;> simp [ha, hv, hb, Memory.read_erase]
    · rw [if_pos ha, if_neg hv, Memory.read_insert _ _ _ _ (fun c hc => (Memory.mem_erase hc).2),
        Memory.read_erase]
      by_cases hb : b = a <;> simp [ha, hb]
  · simp [ha]

/-- After consecutive writes, an address of the written range that exists reads as its byte, every other as before. -/
theorem Memory.read_writeAll (m : Memory) (a : Nat) (bs : List Byte) (b : Nat) :
    (m.writeAll a bs).read b =
      if h : a ≤ b ∧ b < a + bs.length ∧ b ≤ 4095 then bs[b - a]'(by omega) else m.read b := by
  induction bs generalizing m a with
  | nil => rw [dif_neg (by simp; omega)]; rfl
  | cons v bs ih =>
    rw [Memory.writeAll, ih, Memory.read_write]
    by_cases h1 : a + 1 ≤ b ∧ b < a + 1 + bs.length ∧ b ≤ 4095
    · obtain ⟨n, hn⟩ : ∃ n, b - a = n + 1 := ⟨b - a - 1, by omega⟩
      have hn' : b - (a + 1) = n := by omega
      rw [dif_pos h1, dif_pos (by simp; omega)]
      simp [hn, hn']
    · rw [dif_neg h1]
      by_cases h2 : b = a ∧ a ≤ 4095
      · rw [if_pos h2, dif_pos (by simp; omega)]
        simp [h2.1]
      · rw [if_neg h2, dif_neg (by simp; omega)]

theorem Memory.wf_nil : Memory.wf [] := ⟨List.Pairwise.nil, by simp⟩

theorem Memory.wf_erase {m : Memory} (a : Nat) (h : m.wf) : (m.erase a).wf := by
  refine ⟨?_, fun c hc => h.2 c (Memory.mem_erase hc).1⟩
  have hp := h.1
  clear h
  induction m with
  | nil => exact List.Pairwise.nil
  | cons d m ih =>
    obtain ⟨hd, hm⟩ := List.pairwise_cons.1 hp
    by_cases hda : d.1 = a
    · simpa only [Memory.erase, hda, if_true] using ih hm
    · simp only [Memory.erase, hda, if_false]
      exact List.pairwise_cons.2 ⟨fun c hc => hd c (Memory.mem_erase hc).1, ih hm⟩

theorem Memory.pairwise_insert {m : Memory} {a : Nat} {v : Byte}
    (hp : m.Pairwise (fun p q => p.1 < q.1)) (hne : ∀ c ∈ m, c.1 ≠ a) :
    (m.insert a v).Pairwise (fun p q => p.1 < q.1) := by
  induction m with
  | nil => exact List.pairwise_singleton _ _
  | cons d m ih =>
    obtain ⟨hd, hm⟩ := List.pairwise_cons.1 hp
    have hda := hne d List.mem_cons_self
    by_cases hlt : a < d.1
    · simp only [Memory.insert, hlt, if_true]
      refine List.pairwise_cons.2 ⟨fun c hc => ?_, hp⟩
      rcases List.mem_cons.1 hc with rfl | hc
      · exact hlt
      · exact Nat.lt_trans hlt (hd c hc)
    · simp only [Memory.insert, hlt, if_false]
      refine List.pairwise_cons.2 ⟨fun c hc => ?_, ih hm (fun c hc => hne c (List.mem_cons_of_mem _ hc))⟩
      rcases Memory.mem_insert hc with rfl | hc
      · show d.1 < a
        omega
      · exact hd c hc

/-- A write keeps the canonical form. -/
theorem Memory.wf_write {m : Memory} (a : Nat) (v : Byte) (h : m.wf) : (m.write a v).wf := by
  unfold Memory.write
  split
  · rename_i ha
    split
    · exact Memory.wf_erase a h
    · rename_i hv
      have he := Memory.wf_erase a h
      refine ⟨Memory.pairwise_insert he.1 (fun c hc => (Memory.mem_erase hc).2), fun c hc => ?_⟩
      rcases Memory.mem_insert hc with rfl | hc
      · exact ⟨ha, hv⟩
      · exact he.2 c hc
  · exact h

/-- Consecutive writes keep the canonical form. -/
theorem Memory.wf_writeAll {m : Memory} (a : Nat) (bs : List Byte) (h : m.wf) : (m.writeAll a bs).wf := by
  induction bs generalizing m a with
  | nil => exact h
  | cons v bs ih => exact ih (a + 1) (Memory.wf_write a v h)

/-- Writing what the empty memory reads as lists nothing. -/
theorem Memory.writeAll_unlisted (a : Nat) (bs : List Byte)
    (h : ∀ k (hk : k < bs.length), bs[k] = Memory.unlisted (a + k)) : Memory.writeAll [] a bs = [] := by
  induction bs generalizing a with
  | nil => rfl
  | cons v bs ih =>
    have hv : v = Memory.unlisted a := h 0 (by simp)
    have hw : Memory.write [] a v = [] := by simp [Memory.write, hv, Memory.erase]
    rw [Memory.writeAll, hw]
    refine ih (a + 1) (fun k hk => ?_)
    have := h (k + 1) (by simp; omega)
    simpa [Nat.add_assoc, Nat.add_comm 1 k] using this

end Sys2Proof.Machine
end

