-- ==== Sys2Proof/Laws/PerInstr.lean ====
section
/-! SUPPORT. The family RoundTrip, one lemma per constructor of Instr: decoding the word of a well-formed instruction
gives it back (30_encoding.md R65, R66). -/

/-- The decoder undoes the encoder on a well-formed instruction (R65, R66). -/
def Sys2Proof.Laws.RoundTrip.Statement (i : Sys2Proof.Instr) : Prop :=
  Sys2Proof.WellFormed i = true → Sys2Proof.decodeWord (Sys2Proof.encode i) = i

namespace Sys2Proof.Laws.RoundTrip

open Sys2Proof

theorem cls : Statement (.cls) := fun _ => by decide

theorem ret : Statement (.ret) := fun _ => by decide

theorem jp (nnn : Addr) : Statement (.jp nnn) := fun _ => by
  simp [encode, decodeWord]

theorem call (nnn : Addr) : Statement (.call nnn) := fun _ => by
  simp [encode, decodeWord]

theorem seImm (x : Nibble) (nn : Byte) : Statement (.seImm x nn) := fun _ => by
  simp [encode, decodeWord]

theorem sneImm (x : Nibble) (nn : Byte) : Statement (.sneImm x nn) := fun _ => by
  simp [encode, decodeWord]

theorem seReg (x : Nibble) (y : Nibble) : Statement (.seReg x y) := fun _ => by
  simp [encode, decodeWord]

theorem ldImm (x : Nibble) (nn : Byte) : Statement (.ldImm x nn) := fun _ => by
  simp [encode, decodeWord]

theorem addImm (x : Nibble) (nn : Byte) : Statement (.addImm x nn) := fun _ => by
  simp [encode, decodeWord]

theorem ldReg (x : Nibble) (y : Nibble) : Statement (.ldReg x y) := fun _ => by
  simp [encode, decodeWord, decodeAlu]

theorem orReg (x : Nibble) (y : Nibble) : Statement (.orReg x y) := fun _ => by
  simp [encode, decodeWord, decodeAlu]

theorem andReg (x : Nibble) (y : Nibble) : Statement (.andReg x y) := fun _ => by
  simp [encode, decodeWord, decodeAlu]

theorem xorReg (x : Nibble) (y : Nibble) : Statement (.xorReg x y) := fun _ => by
  simp [encode, decodeWord, decodeAlu]

theorem addReg (x : Nibble) (y : Nibble) : Statement (.addReg x y) := fun _ => by
  simp [encode, decodeWord, decodeAlu]

theorem subReg (x : Nibble) (y : Nibble) : Statement (.subReg x y) := fun _ => by
  simp [encode, decodeWord, decodeAlu]

theorem shr (x : Nibble) (y : Nibble) : Statement (.shr x y) := fun _ => by
  simp [encode, decodeWord, decodeAlu]

theorem subnReg (x : Nibble) (y : Nibble) : Statement (.subnReg x y) := fun _ => by
  simp [encode, decodeWord, decodeAlu]

theorem shl (x : Nibble) (y : Nibble) : Statement (.shl x y) := fun _ => by
  simp [encode, decodeWord, decodeAlu]

theorem sneReg (x : Nibble) (y : Nibble) : Statement (.sneReg x y) := fun _ => by
  simp [encode, decodeWord]

theorem ldI (nnn : Addr) : Statement (.ldI nnn) := fun _ => by
  simp [encode, decodeWord]

theorem jpV0 (nnn : Addr) : Statement (.jpV0 nnn) := fun _ => by
  simp [encode, decodeWord]

theorem rnd (x : Nibble) (nn : Byte) : Statement (.rnd x nn) := fun _ => by
  simp [encode, decodeWord]

theorem drw (x : Nibble) (y : Nibble) (n : Nibble) : Statement (.drw x y n) := fun _ => by
  simp [encode, decodeWord]

theorem skp (x : Nibble) : Statement (.skp x) := fun _ => by
  simp [encode, decodeWord, decodeKeys]

theorem sknp (x : Nibble) : Statement (.sknp x) := fun _ => by
  simp [encode, decodeWord, decodeKeys]

theorem ldVxDt (x : Nibble) : Statement (.ldVxDt x) := fun _ => by
  simp [encode, decodeWord, decodeMisc]

theorem ldDtVx (x : Nibble) : Statement (.ldDtVx x) := fun _ => by
  simp [encode, decodeWord, decodeMisc]

theorem ldStVx (x : Nibble) : Statement (.ldStVx x) := fun _ => by
  simp [encode, decodeWord, decodeMisc]

theorem addI (x : Nibble) : Statement (.addI x) := fun _ => by
  simp [encode, decodeWord, decodeMisc]

theorem ldF (x : Nibble) : Statement (.ldF x) := fun _ => by
  simp [encode, decodeWord, decodeMisc]

theorem ldB (x : Nibble) : Statement (.ldB x) := fun _ => by
  simp [encode, decodeWord, decodeMisc]

theorem storeRegs (x : Nibble) : Statement (.storeRegs x) := fun _ => by
  simp [encode, decodeWord, decodeMisc]

theorem loadRegs (x : Nibble) : Statement (.loadRegs x) := fun _ => by
  simp [encode, decodeWord, decodeMisc]

theorem sys (nnn : Addr) : Statement (.sys nnn) := fun h => by
  have h : nnn ≠ 0x0E0#12 ∧ nnn ≠ 0x0EE#12 := by simpa [WellFormed] using h
  simp [encode, decodeWord, decodeFamily0, h]

theorem ldVxK (x : Nibble) : Statement (.ldVxK x) := fun _ => by
  simp [encode, decodeWord, decodeMisc]

theorem unknown (w : Word) : Statement (.unknown w) := decodeWord_of_unmatched w

end Sys2Proof.Laws.RoundTrip
end

