-- ==== Sys2Proof/Laws/State.lean ====
section
/-! SUPPORT. One lemma per field of State and per update: what the update leaves there. The later proofs rewrite with
these and never unfold a record update. -/

namespace Sys2Proof.Machine

variable (s : State)

/-! ## `State.setV` -/

@[simp] theorem State.setV_v (x : Nibble) (b : Byte) : (s.setV x b).v = s.v.set x.toNat b x.isLt := rfl
@[simp] theorem State.setV_i (x : Nibble) (b : Byte) : (s.setV x b).i = s.i := rfl
@[simp] theorem State.setV_pc (x : Nibble) (b : Byte) : (s.setV x b).pc = s.pc := rfl
@[simp] theorem State.setV_stack (x : Nibble) (b : Byte) : (s.setV x b).stack = s.stack := rfl
@[simp] theorem State.setV_sp (x : Nibble) (b : Byte) : (s.setV x b).sp = s.sp := rfl
@[simp] theorem State.setV_dt (x : Nibble) (b : Byte) : (s.setV x b).dt = s.dt := rfl
@[simp] theorem State.setV_st (x : Nibble) (b : Byte) : (s.setV x b).st = s.st := rfl
@[simp] theorem State.setV_fb (x : Nibble) (b : Byte) : (s.setV x b).fb = s.fb := rfl
@[simp] theorem State.setV_df (x : Nibble) (b : Byte) : (s.setV x b).df = s.df := rfl
@[simp] theorem State.setV_key (x : Nibble) (b : Byte) : (s.setV x b).key = s.key := rfl
@[simp] theorem State.setV_mem (x : Nibble) (b : Byte) : (s.setV x b).mem = s.mem := rfl
@[simp] theorem State.setV_esr (x : Nibble) (b : Byte) : (s.setV x b).esr = s.esr := rfl
@[simp] theorem State.setV_report (x : Nibble) (b : Byte) : (s.setV x b).report = s.report := rfl
@[simp] theorem State.setV_rnd (x : Nibble) (b : Byte) : (s.setV x b).rnd = s.rnd := rfl
@[simp] theorem State.setV_draws (x : Nibble) (b : Byte) : (s.setV x b).draws = s.draws := rfl

/-! ## `State.setPc` -/

@[simp] theorem State.setPc_v (t : Word) : (s.setPc t).v = s.v := rfl
@[simp] theorem State.setPc_i (t : Word) : (s.setPc t).i = s.i := rfl
@[simp] theorem State.setPc_pc (t : Word) : (s.setPc t).pc = t := rfl
@[simp] theorem State.setPc_stack (t : Word) : (s.setPc t).stack = s.stack := rfl
@[simp] theorem State.setPc_sp (t : Word) : (s.setPc t).sp = s.sp := rfl
@[simp] theorem State.setPc_dt (t : Word) : (s.setPc t).dt = s.dt := rfl
@[simp] theorem State.setPc_st (t : Word) : (s.setPc t).st = s.st := rfl
@[simp] theorem State.setPc_fb (t : Word) : (s.setPc t).fb = s.fb := rfl
@[simp] theorem State.setPc_df (t : Word) : (s.setPc t).df = s.df := rfl
@[simp] theorem State.setPc_key (t : Word) : (s.setPc t).key = s.key := rfl
@[simp] theorem State.setPc_mem (t : Word) : (s.setPc t).mem = s.mem := rfl
@[simp] theorem State.setPc_esr (t : Word) : (s.setPc t).esr = s.esr := rfl
@[simp] theorem State.setPc_report (t : Word) : (s.setPc t).report = s.report := rfl
@[simp] theorem State.setPc_rnd (t : Word) : (s.setPc t).rnd = s.rnd := rfl
@[simp] theorem State.setPc_draws (t : Word) : (s.setPc t).draws = s.draws := rfl

/-! ## `State.advancePc` -/

@[simp] theorem State.advancePc_v : (s.advancePc).v = s.v := rfl
@[simp] theorem State.advancePc_i : (s.advancePc).i = s.i := rfl
@[simp] theorem State.advancePc_pc : (s.advancePc).pc = s.pc + 2#16 := rfl
@[simp] theorem State.advancePc_stack : (s.advancePc).stack = s.stack := rfl
@[simp] theorem State.advancePc_sp : (s.advancePc).sp = s.sp := rfl
@[simp] theorem State.advancePc_dt : (s.advancePc).dt = s.dt := rfl
@[simp] theorem State.advancePc_st : (s.advancePc).st = s.st := rfl
@[simp] theorem State.advancePc_fb : (s.advancePc).fb = s.fb := rfl
@[simp] theorem State.advancePc_df : (s.advancePc).df = s.df := rfl
@[simp] theorem State.advancePc_key : (s.advancePc).key = s.key := rfl
@[simp] theorem State.advancePc_mem : (s.advancePc).mem = s.mem := rfl
@[simp] theorem State.advancePc_esr : (s.advancePc).esr = s.esr := rfl
@[simp] theorem State.advancePc_report : (s.advancePc).report = s.report := rfl
@[simp] theorem State.advancePc_rnd : (s.advancePc).rnd = s.rnd := rfl
@[simp] theorem State.advancePc_draws : (s.advancePc).draws = s.draws := rfl

/-! ## `State.setI` -/

@[simp] theorem State.setI_v (w : Word) : (s.setI w).v = s.v := rfl
@[simp] theorem State.setI_i (w : Word) : (s.setI w).i = w := rfl
@[simp] theorem State.setI_pc (w : Word) : (s.setI w).pc = s.pc := rfl
@[simp] theorem State.setI_stack (w : Word) : (s.setI w).stack = s.stack := rfl
@[simp] theorem State.setI_sp (w : Word) : (s.setI w).sp = s.sp := rfl
@[simp] theorem State.setI_dt (w : Word) : (s.setI w).dt = s.dt := rfl
@[simp] theorem State.setI_st (w : Word) : (s.setI w).st = s.st := rfl
@[simp] theorem State.setI_fb (w : Word) : (s.setI w).fb = s.fb := rfl
@[simp] theorem State.setI_df (w : Word) : (s.setI w).df = s.df := rfl
@[simp] theorem State.setI_key (w : Word) : (s.setI w).key = s.key := rfl
@[simp] theorem State.setI_mem (w : Word) : (s.setI w).mem = s.mem := rfl
@[simp] theorem State.setI_esr (w : Word) : (s.setI w).esr = s.esr := rfl
@[simp] theorem State.setI_report (w : Word) : (s.setI w).report = s.report := rfl
@[simp] theorem State.setI_rnd (w : Word) : (s.setI w).rnd = s.rnd := rfl
@[simp] theorem State.setI_draws (w : Word) : (s.setI w).draws = s.draws := rfl

/-! ## `State.push` -/

@[simp] theorem State.push_v (w : Word) (h : s.sp.val < 16) : (s.push w h).v = s.v := rfl
@[simp] theorem State.push_i (w : Word) (h : s.sp.val < 16) : (s.push w h).i = s.i := rfl
@[simp] theorem State.push_pc (w : Word) (h : s.sp.val < 16) : (s.push w h).pc = s.pc := rfl
@[simp] theorem State.push_stack (w : Word) (h : s.sp.val < 16) : (s.push w h).stack = s.stack.set s.sp.val w h := rfl
@[simp] theorem State.push_sp (w : Word) (h : s.sp.val < 16) : (s.push w h).sp = ⟨s.sp.val + 1, by omega⟩ := rfl
@[simp] theorem State.push_dt (w : Word) (h : s.sp.val < 16) : (s.push w h).dt = s.dt := rfl
@[simp] theorem State.push_st (w : Word) (h : s.sp.val < 16) : (s.push w h).st = s.st := rfl
@[simp] theorem State.push_fb (w : Word) (h : s.sp.val < 16) : (s.push w h).fb = s.fb := rfl
@[simp] theorem State.push_df (w : Word) (h : s.sp.val < 16) : (s.push w h).df = s.df := rfl
@[simp] theorem State.push_key (w : Word) (h : s.sp.val < 16) : (s.push w h).key = s.key := rfl
@[simp] theorem State.push_mem (w : Word) (h : s.sp.val < 16) : (s.push w h).mem = s.mem := rfl
@[simp] theorem State.push_esr (w : Word) (h : s.sp.val < 16) : (s.push w h).esr = s.esr := rfl
@[simp] theorem State.push_report (w : Word) (h : s.sp.val < 16) : (s.push w h).report = s.report := rfl
@[simp] theorem State.push_rnd (w : Word) (h : s.sp.val < 16) : (s.push w h).rnd = s.rnd := rfl
@[simp] theorem State.push_draws (w : Word) (h : s.sp.val < 16) : (s.push w h).draws = s.draws := rfl

/-! ## `State.pop` -/

@[simp] theorem State.pop_v : (s.pop).v = s.v := rfl
@[simp] theorem State.pop_i : (s.pop).i = s.i := rfl
@[simp] theorem State.pop_pc : (s.pop).pc = s.pc := rfl
@[simp] theorem State.pop_stack : (s.pop).stack = s.stack := rfl
@[simp] theorem State.pop_sp : (s.pop).sp = ⟨s.sp.val - 1, by omega⟩ := rfl
@[simp] theorem State.pop_dt : (s.pop).dt = s.dt := rfl
@[simp] theorem State.pop_st : (s.pop).st = s.st := rfl
@[simp] theorem State.pop_fb : (s.pop).fb = s.fb := rfl
@[simp] theorem State.pop_df : (s.pop).df = s.df := rfl
@[simp] theorem State.pop_key : (s.pop).key = s.key := rfl
@[simp] theorem State.pop_mem : (s.pop).mem = s.mem := rfl
@[simp] theorem State.pop_esr : (s.pop).esr = s.esr := rfl
@[simp] theorem State.pop_report : (s.pop).report = s.report := rfl
@[simp] theorem State.pop_rnd : (s.pop).rnd = s.rnd := rfl
@[simp] theorem State.pop_draws : (s.pop).draws = s.draws := rfl

/-! ## `State.setDt` -/

@[simp] theorem State.setDt_v (b : Byte) : (s.setDt b).v = s.v := rfl
@[simp] theorem State.setDt_i (b : Byte) : (s.setDt b).i = s.i := rfl
@[simp] theorem State.setDt_pc (b : Byte) : (s.setDt b).pc = s.pc := rfl
@[simp] theorem State.setDt_stack (b : Byte) : (s.setDt b).stack = s.stack := rfl
@[simp] theorem State.setDt_sp (b : Byte) : (s.setDt b).sp = s.sp := rfl
@[simp] theorem State.setDt_dt (b : Byte) : (s.setDt b).dt = b := rfl
@[simp] theorem State.setDt_st (b : Byte) : (s.setDt b).st = s.st := rfl
@[simp] theorem State.setDt_fb (b : Byte) : (s.setDt b).fb = s.fb := rfl
@[simp] theorem State.setDt_df (b : Byte) : (s.setDt b).df = s.df := rfl
@[simp] theorem State.setDt_key (b : Byte) : (s.setDt b).key = s.key := rfl
@[simp] theorem State.setDt_mem (b : Byte) : (s.setDt b).mem = s.mem := rfl
@[simp] theorem State.setDt_esr (b : Byte) : (s.setDt b).esr = s.esr := rfl
@[simp] theorem State.setDt_report (b : Byte) : (s.setDt b).report = s.report := rfl
@[simp] theorem State.setDt_rnd (b : Byte) : (s.setDt b).rnd = s.rnd := rfl
@[simp] theorem State.setDt_draws (b : Byte) : (s.setDt b).draws = s.draws := rfl

/-! ## `State.setSt` -/

@[simp] theorem State.setSt_v (b : Byte) : (s.setSt b).v = s.v := rfl
@[simp] theorem State.setSt_i (b : Byte) : (s.setSt b).i = s.i := rfl
@[simp] theorem State.setSt_pc (b : Byte) : (s.setSt b).pc = s.pc := rfl
@[simp] theorem State.setSt_stack (b : Byte) : (s.setSt b).stack = s.stack := rfl
@[simp] theorem State.setSt_sp (b : Byte) : (s.setSt b).sp = s.sp := rfl
@[simp] theorem State.setSt_dt (b : Byte) : (s.setSt b).dt = s.dt := rfl
@[simp] theorem State.setSt_st (b : Byte) : (s.setSt b).st = b := rfl
@[simp] theorem State.setSt_fb (b : Byte) : (s.setSt b).fb = s.fb := rfl
@[simp] theorem State.setSt_df (b : Byte) : (s.setSt b).df = s.df := rfl
@[simp] theorem State.setSt_key (b : Byte) : (s.setSt b).key = s.key := rfl
@[simp] theorem State.setSt_mem (b : Byte) : (s.setSt b).mem = s.mem := rfl
@[simp] theorem State.setSt_esr (b : Byte) : (s.setSt b).esr = s.esr := rfl
@[simp] theorem State.setSt_report (b : Byte) : (s.setSt b).report = s.report := rfl
@[simp] theorem State.setSt_rnd (b : Byte) : (s.setSt b).rnd = s.rnd := rfl
@[simp] theorem State.setSt_draws (b : Byte) : (s.setSt b).draws = s.draws := rfl

/-! ## `State.present` -/

@[simp] theorem State.present_v (f : Frame) : (s.present f).v = s.v := rfl
@[simp] theorem State.present_i (f : Frame) : (s.present f).i = s.i := rfl
@[simp] theorem State.present_pc (f : Frame) : (s.present f).pc = s.pc := rfl
@[simp] theorem State.present_stack (f : Frame) : (s.present f).stack = s.stack := rfl
@[simp] theorem State.present_sp (f : Frame) : (s.present f).sp = s.sp := rfl
@[simp] theorem State.present_dt (f : Frame) : (s.present f).dt = s.dt := rfl
@[simp] theorem State.present_st (f : Frame) : (s.present f).st = s.st := rfl
@[simp] theorem State.present_fb (f : Frame) : (s.present f).fb = f := rfl
@[simp] theorem State.present_df (f : Frame) : (s.present f).df = true := rfl
@[simp] theorem State.present_key (f : Frame) : (s.present f).key = s.key := rfl
@[simp] theorem State.present_mem (f : Frame) : (s.present f).mem = s.mem := rfl
@[simp] theorem State.present_esr (f : Frame) : (s.present f).esr = s.esr := rfl
@[simp] theorem State.present_report (f : Frame) : (s.present f).report = s.report := rfl
@[simp] theorem State.present_rnd (f : Frame) : (s.present f).rnd = s.rnd := rfl
@[simp] theorem State.present_draws (f : Frame) : (s.present f).draws = s.draws := rfl

/-! ## `State.storeAll` -/

@[simp] theorem State.storeAll_v (a : Nat) (bs : List Byte) : (s.storeAll a bs).v = s.v := rfl
@[simp] theorem State.storeAll_i (a : Nat) (bs : List Byte) : (s.storeAll a bs).i = s.i := rfl
@[simp] theorem State.storeAll_pc (a : Nat) (bs : List Byte) : (s.storeAll a bs).pc = s.pc := rfl
@[simp] theorem State.storeAll_stack (a : Nat) (bs : List Byte) : (s.storeAll a bs).stack = s.stack := rfl
@[simp] theorem State.storeAll_sp (a : Nat) (bs : List Byte) : (s.storeAll a bs).sp = s.sp := rfl
@[simp] theorem State.storeAll_dt (a : Nat) (bs : List Byte) : (s.storeAll a bs).dt = s.dt := rfl
@[simp] theorem State.storeAll_st (a : Nat) (bs : List Byte) : (s.storeAll a bs).st = s.st := rfl
@[simp] theorem State.storeAll_fb (a : Nat) (bs : List Byte) : (s.storeAll a bs).fb = s.fb := rfl
@[simp] theorem State.storeAll_df (a : Nat) (bs : List Byte) : (s.storeAll a bs).df = s.df := rfl
@[simp] theorem State.storeAll_key (a : Nat) (bs : List Byte) : (s.storeAll a bs).key = s.key := rfl
@[simp] theorem State.storeAll_mem (a : Nat) (bs : List Byte) : (s.storeAll a bs).mem = s.mem.writeAll a bs := rfl
@[simp] theorem State.storeAll_esr (a : Nat) (bs : List Byte) : (s.storeAll a bs).esr = s.esr := rfl
@[simp] theorem State.storeAll_report (a : Nat) (bs : List Byte) : (s.storeAll a bs).report = s.report := rfl
@[simp] theorem State.storeAll_rnd (a : Nat) (bs : List Byte) : (s.storeAll a bs).rnd = s.rnd := rfl
@[simp] theorem State.storeAll_draws (a : Nat) (bs : List Byte) : (s.storeAll a bs).draws = s.draws := rfl

/-! ## `State.loadRegs` -/

@[simp] theorem State.loadRegs_v (x : Nibble) : (s.loadRegs x).v = loadRegFile s.mem s.base (regCount x) s.v := rfl
@[simp] theorem State.loadRegs_i (x : Nibble) : (s.loadRegs x).i = s.i := rfl
@[simp] theorem State.loadRegs_pc (x : Nibble) : (s.loadRegs x).pc = s.pc := rfl
@[simp] theorem State.loadRegs_stack (x : Nibble) : (s.loadRegs x).stack = s.stack := rfl
@[simp] theorem State.loadRegs_sp (x : Nibble) : (s.loadRegs x).sp = s.sp := rfl
@[simp] theorem State.loadRegs_dt (x : Nibble) : (s.loadRegs x).dt = s.dt := rfl
@[simp] theorem State.loadRegs_st (x : Nibble) : (s.loadRegs x).st = s.st := rfl
@[simp] theorem State.loadRegs_fb (x : Nibble) : (s.loadRegs x).fb = s.fb := rfl
@[simp] theorem State.loadRegs_df (x : Nibble) : (s.loadRegs x).df = s.df := rfl
@[simp] theorem State.loadRegs_key (x : Nibble) : (s.loadRegs x).key = s.key := rfl
@[simp] theorem State.loadRegs_mem (x : Nibble) : (s.loadRegs x).mem = s.mem := rfl
@[simp] theorem State.loadRegs_esr (x : Nibble) : (s.loadRegs x).esr = s.esr := rfl
@[simp] theorem State.loadRegs_report (x : Nibble) : (s.loadRegs x).report = s.report := rfl
@[simp] theorem State.loadRegs_rnd (x : Nibble) : (s.loadRegs x).rnd = s.rnd := rfl
@[simp] theorem State.loadRegs_draws (x : Nibble) : (s.loadRegs x).draws = s.draws := rfl

/-! ## `State.raise` -/

@[simp] theorem State.raise_v (r : Report) : (s.raise r).v = s.v := rfl
@[simp] theorem State.raise_i (r : Report) : (s.raise r).i = s.i := rfl
@[simp] theorem State.raise_pc (r : Report) : (s.raise r).pc = s.pc := rfl
@[simp] theorem State.raise_stack (r : Report) : (s.raise r).stack = s.stack := rfl
@[simp] theorem State.raise_sp (r : Report) : (s.raise r).sp = s.sp := rfl
@[simp] theorem State.raise_dt (r : Report) : (s.raise r).dt = s.dt := rfl
@[simp] theorem State.raise_st (r : Report) : (s.raise r).st = s.st := rfl
@[simp] theorem State.raise_fb (r : Report) : (s.raise r).fb = s.fb := rfl
@[simp] theorem State.raise_df (r : Report) : (s.raise r).df = s.df := rfl
@[simp] theorem State.raise_key (r : Report) : (s.raise r).key = s.key := rfl
@[simp] theorem State.raise_mem (r : Report) : (s.raise r).mem = s.mem := rfl
@[simp] theorem State.raise_esr (r : Report) : (s.raise r).esr = s.esr := rfl
@[simp] theorem State.raise_report (r : Report) : (s.raise r).report = r := rfl
@[simp] theorem State.raise_rnd (r : Report) : (s.raise r).rnd = s.rnd := rfl
@[simp] theorem State.raise_draws (r : Report) : (s.raise r).draws = s.draws := rfl

/-! ## `State.unknownWord` -/

@[simp] theorem State.unknownWord_v (w : Word) : (s.unknownWord w).v = s.v := rfl
@[simp] theorem State.unknownWord_i (w : Word) : (s.unknownWord w).i = s.i := rfl
@[simp] theorem State.unknownWord_pc (w : Word) : (s.unknownWord w).pc = s.pc := rfl
@[simp] theorem State.unknownWord_stack (w : Word) : (s.unknownWord w).stack = s.stack := rfl
@[simp] theorem State.unknownWord_sp (w : Word) : (s.unknownWord w).sp = s.sp := rfl
@[simp] theorem State.unknownWord_dt (w : Word) : (s.unknownWord w).dt = s.dt := rfl
@[simp] theorem State.unknownWord_st (w : Word) : (s.unknownWord w).st = s.st := rfl
@[simp] theorem State.unknownWord_fb (w : Word) : (s.unknownWord w).fb = s.fb := rfl
@[simp] theorem State.unknownWord_df (w : Word) : (s.unknownWord w).df = s.df := rfl
@[simp] theorem State.unknownWord_key (w : Word) : (s.unknownWord w).key = s.key := rfl
@[simp] theorem State.unknownWord_mem (w : Word) : (s.unknownWord w).mem = s.mem := rfl
@[simp] theorem State.unknownWord_esr (w : Word) : (s.unknownWord w).esr = s.esr := rfl
@[simp] theorem State.unknownWord_report (w : Word) : (s.unknownWord w).report = .unknownOpcode w := rfl
@[simp] theorem State.unknownWord_rnd (w : Word) : (s.unknownWord w).rnd = s.rnd := rfl
@[simp] theorem State.unknownWord_draws (w : Word) : (s.unknownWord w).draws = s.draws := rfl

/-! ## `State.begin` -/

@[simp] theorem State.begin_v (b : Byte) : (s.begin b).v = s.v := rfl
@[simp] theorem State.begin_i (b : Byte) : (s.begin b).i = s.i := rfl
@[simp] theorem State.begin_pc (b : Byte) : (s.begin b).pc = s.pc := rfl
@[simp] theorem State.begin_stack (b : Byte) : (s.begin b).stack = s.stack := rfl
@[simp] theorem State.begin_sp (b : Byte) : (s.begin b).sp = s.sp := rfl
@[simp] theorem State.begin_dt (b : Byte) : (s.begin b).dt = s.dt := rfl
@[simp] theorem State.begin_st (b : Byte) : (s.begin b).st = s.st := rfl
@[simp] theorem State.begin_fb (b : Byte) : (s.begin b).fb = s.fb := rfl
@[simp] theorem State.begin_df (b : Byte) : (s.begin b).df = s.df := rfl
@[simp] theorem State.begin_key (b : Byte) : (s.begin b).key = s.key := rfl
@[simp] theorem State.begin_mem (b : Byte) : (s.begin b).mem = s.mem := rfl
@[simp] theorem State.begin_esr (b : Byte) : (s.begin b).esr = s.esr := rfl
@[simp] theorem State.begin_report (b : Byte) : (s.begin b).report = .none := rfl
@[simp] theorem State.begin_rnd (b : Byte) : (s.begin b).rnd = b := rfl
@[simp] theorem State.begin_draws (b : Byte) : (s.begin b).draws = s.draws := rfl

/-! ## `State.countDraw` -/

@[simp] theorem State.countDraw_v : (s.countDraw).v = s.v := rfl
@[simp] theorem State.countDraw_i : (s.countDraw).i = s.i := rfl
@[simp] theorem State.countDraw_pc : (s.countDraw).pc = s.pc := rfl
@[simp] theorem State.countDraw_stack : (s.countDraw).stack = s.stack := rfl
@[simp] theorem State.countDraw_sp : (s.countDraw).sp = s.sp := rfl
@[simp] theorem State.countDraw_dt : (s.countDraw).dt = s.dt := rfl
@[simp] theorem State.countDraw_st : (s.countDraw).st = s.st := rfl
@[simp] theorem State.countDraw_fb : (s.countDraw).fb = s.fb := rfl
@[simp] theorem State.countDraw_df : (s.countDraw).df = s.df := rfl
@[simp] theorem State.countDraw_key : (s.countDraw).key = s.key := rfl
@[simp] theorem State.countDraw_mem : (s.countDraw).mem = s.mem := rfl
@[simp] theorem State.countDraw_esr : (s.countDraw).esr = s.esr := rfl
@[simp] theorem State.countDraw_report : (s.countDraw).report = s.report := rfl
@[simp] theorem State.countDraw_rnd : (s.countDraw).rnd = s.rnd := rfl
@[simp] theorem State.countDraw_draws : (s.countDraw).draws = s.draws + 1 := rfl

/-! ## `State.tick` -/

@[simp] theorem State.tick_v : (s.tick).v = s.v := rfl
@[simp] theorem State.tick_i : (s.tick).i = s.i := rfl
@[simp] theorem State.tick_pc : (s.tick).pc = s.pc := rfl
@[simp] theorem State.tick_stack : (s.tick).stack = s.stack := rfl
@[simp] theorem State.tick_sp : (s.tick).sp = s.sp := rfl
@[simp] theorem State.tick_dt : (s.tick).dt = tickDown s.dt := rfl
@[simp] theorem State.tick_st : (s.tick).st = tickDown s.st := rfl
@[simp] theorem State.tick_fb : (s.tick).fb = s.fb := rfl
@[simp] theorem State.tick_df : (s.tick).df = s.df := rfl
@[simp] theorem State.tick_key : (s.tick).key = s.key := rfl
@[simp] theorem State.tick_mem : (s.tick).mem = s.mem := rfl
@[simp] theorem State.tick_esr : (s.tick).esr = s.esr := rfl
@[simp] theorem State.tick_report : (s.tick).report = s.report := rfl
@[simp] theorem State.tick_rnd : (s.tick).rnd = s.rnd := rfl
@[simp] theorem State.tick_draws : (s.tick).draws = s.draws := rfl

/-! ## `State.logReport` -/

@[simp] theorem State.logReport_v : (s.logReport).v = s.v := rfl
@[simp] theorem State.logReport_i : (s.logReport).i = s.i := rfl
@[simp] theorem State.logReport_pc : (s.logReport).pc = s.pc := rfl
@[simp] theorem State.logReport_stack : (s.logReport).stack = s.stack := rfl
@[simp] theorem State.logReport_sp : (s.logReport).sp = s.sp := rfl
@[simp] theorem State.logReport_dt : (s.logReport).dt = s.dt := rfl
@[simp] theorem State.logReport_st : (s.logReport).st = s.st := rfl
@[simp] theorem State.logReport_fb : (s.logReport).fb = s.fb := rfl
@[simp] theorem State.logReport_df : (s.logReport).df = s.df := rfl
@[simp] theorem State.logReport_key : (s.logReport).key = s.key := rfl
@[simp] theorem State.logReport_mem : (s.logReport).mem = s.mem := rfl
@[simp] theorem State.logReport_esr : (s.logReport).esr = s.esr ||| s.report.esrBit := rfl
@[simp] theorem State.logReport_report : (s.logReport).report = s.report := rfl
@[simp] theorem State.logReport_rnd : (s.logReport).rnd = s.rnd := rfl
@[simp] theorem State.logReport_draws : (s.logReport).draws = s.draws := rfl

/-! ## `State.finish` -/

@[simp] theorem State.finish_v : (s.finish).v = s.v := rfl
@[simp] theorem State.finish_i : (s.finish).i = s.i := rfl
@[simp] theorem State.finish_pc : (s.finish).pc = s.pc := rfl
@[simp] theorem State.finish_stack : (s.finish).stack = s.stack := rfl
@[simp] theorem State.finish_sp : (s.finish).sp = s.sp := rfl
@[simp] theorem State.finish_dt : (s.finish).dt = tickDown s.dt := rfl
@[simp] theorem State.finish_st : (s.finish).st = tickDown s.st := rfl
@[simp] theorem State.finish_fb : (s.finish).fb = s.fb := rfl
@[simp] theorem State.finish_df : (s.finish).df = s.df := rfl
@[simp] theorem State.finish_key : (s.finish).key = s.key := rfl
@[simp] theorem State.finish_mem : (s.finish).mem = s.mem := rfl
@[simp] theorem State.finish_esr : (s.finish).esr = s.esr ||| s.report.esrBit := rfl
@[simp] theorem State.finish_report : (s.finish).report = s.report := rfl
@[simp] theorem State.finish_rnd : (s.finish).rnd = s.rnd := rfl
@[simp] theorem State.finish_draws : (s.finish).draws = s.draws := rfl

/-! ## `State.setFlagged` -/

@[simp] theorem State.setFlagged_v (x : Nibble) (c : Bool) (b : Byte) : (s.setFlagged x c b).v = (s.v.set 15 (flagByte c)).set x.toNat b x.isLt := rfl
@[simp] theorem State.setFlagged_i (x : Nibble) (c : Bool) (b : Byte) : (s.setFlagged x c b).i = s.i := rfl
@[simp] theorem State.setFlagged_pc (x : Nibble) (c : Bool) (b : Byte) : (s.setFlagged x c b).pc = s.pc := rfl
@[simp] theorem State.setFlagged_stack (x : Nibble) (c : Bool) (b : Byte) : (s.setFlagged x c b).stack = s.stack := rfl
@[simp] theorem State.setFlagged_sp (x : Nibble) (c : Bool) (b : Byte) : (s.setFlagged x c b).sp = s.sp := rfl
@[simp] theorem State.setFlagged_dt (x : Nibble) (c : Bool) (b : Byte) : (s.setFlagged x c b).dt = s.dt := rfl
@[simp] theorem State.setFlagged_st (x : Nibble) (c : Bool) (b : Byte) : (s.setFlagged x c b).st = s.st := rfl
@[simp] theorem State.setFlagged_fb (x : Nibble) (c : Bool) (b : Byte) : (s.setFlagged x c b).fb = s.fb := rfl
@[simp] theorem State.setFlagged_df (x : Nibble) (c : Bool) (b : Byte) : (s.setFlagged x c b).df = s.df := rfl
@[simp] theorem State.setFlagged_key (x : Nibble) (c : Bool) (b : Byte) : (s.setFlagged x c b).key = s.key := rfl
@[simp] theorem State.setFlagged_mem (x : Nibble) (c : Bool) (b : Byte) : (s.setFlagged x c b).mem = s.mem := rfl
@[simp] theorem State.setFlagged_esr (x : Nibble) (c : Bool) (b : Byte) : (s.setFlagged x c b).esr = s.esr := rfl
@[simp] theorem State.setFlagged_report (x : Nibble) (c : Bool) (b : Byte) : (s.setFlagged x c b).report = s.report := rfl
@[simp] theorem State.setFlagged_rnd (x : Nibble) (c : Bool) (b : Byte) : (s.setFlagged x c b).rnd = s.rnd := rfl
@[simp] theorem State.setFlagged_draws (x : Nibble) (c : Bool) (b : Byte) : (s.setFlagged x c b).draws = s.draws := rfl

/-! ## `State.skipIf` -/

@[simp] theorem State.skipIf_v (c : Bool) : (s.skipIf c).v = s.v := by cases c <;> rfl
@[simp] theorem State.skipIf_i (c : Bool) : (s.skipIf c).i = s.i := by cases c <;> rfl
@[simp] theorem State.skipIf_pc (c : Bool) : (s.skipIf c).pc = if c then s.pc + 2#16 else s.pc := by cases c <;> rfl
@[simp] theorem State.skipIf_stack (c : Bool) : (s.skipIf c).stack = s.stack := by cases c <;> rfl
@[simp] theorem State.skipIf_sp (c : Bool) : (s.skipIf c).sp = s.sp := by cases c <;> rfl
@[simp] theorem State.skipIf_dt (c : Bool) : (s.skipIf c).dt = s.dt := by cases c <;> rfl
@[simp] theorem State.skipIf_st (c : Bool) : (s.skipIf c).st = s.st := by cases c <;> rfl
@[simp] theorem State.skipIf_fb (c : Bool) : (s.skipIf c).fb = s.fb := by cases c <;> rfl
@[simp] theorem State.skipIf_df (c : Bool) : (s.skipIf c).df = s.df := by cases c <;> rfl
@[simp] theorem State.skipIf_key (c : Bool) : (s.skipIf c).key = s.key := by cases c <;> rfl
@[simp] theorem State.skipIf_mem (c : Bool) : (s.skipIf c).mem = s.mem := by cases c <;> rfl
@[simp] theorem State.skipIf_esr (c : Bool) : (s.skipIf c).esr = s.esr := by cases c <;> rfl
@[simp] theorem State.skipIf_report (c : Bool) : (s.skipIf c).report = s.report := by cases c <;> rfl
@[simp] theorem State.skipIf_rnd (c : Bool) : (s.skipIf c).rnd = s.rnd := by cases c <;> rfl
@[simp] theorem State.skipIf_draws (c : Bool) : (s.skipIf c).draws = s.draws := by cases c <;> rfl

/-! ## `State.setKey` -/

@[simp] theorem State.setKey_v (k : Nibble) (c : Bool) : (s.setKey k c).v = s.v := rfl
@[simp] theorem State.setKey_i (k : Nibble) (c : Bool) : (s.setKey k c).i = s.i := rfl
@[simp] theorem State.setKey_pc (k : Nibble) (c : Bool) : (s.setKey k c).pc = s.pc := rfl
@[simp] theorem State.setKey_stack (k : Nibble) (c : Bool) : (s.setKey k c).stack = s.stack := rfl
@[simp] theorem State.setKey_sp (k : Nibble) (c : Bool) : (s.setKey k c).sp = s.sp := rfl
@[simp] theorem State.setKey_dt (k : Nibble) (c : Bool) : (s.setKey k c).dt = s.dt := rfl
@[simp] theorem State.setKey_st (k : Nibble) (c : Bool) : (s.setKey k c).st = s.st := rfl
@[simp] theorem State.setKey_fb (k : Nibble) (c : Bool) : (s.setKey k c).fb = s.fb := rfl
@[simp] theorem State.setKey_df (k : Nibble) (c : Bool) : (s.setKey k c).df = s.df := rfl
@[simp] theorem State.setKey_key (k : Nibble) (c : Bool) : (s.setKey k c).key = s.key.set k.toNat c k.isLt := rfl
@[simp] theorem State.setKey_mem (k : Nibble) (c : Bool) : (s.setKey k c).mem = s.mem := rfl
@[simp] theorem State.setKey_esr (k : Nibble) (c : Bool) : (s.setKey k c).esr = s.esr := rfl
@[simp] theorem State.setKey_report (k : Nibble) (c : Bool) : (s.setKey k c).report = s.report := rfl
@[simp] theorem State.setKey_rnd (k : Nibble) (c : Bool) : (s.setKey k c).rnd = s.rnd := rfl
@[simp] theorem State.setKey_draws (k : Nibble) (c : Bool) : (s.setKey k c).draws = s.draws := rfl

/-! ## `State.ackFrame` -/

@[simp] theorem State.ackFrame_v : (s.ackFrame).v = s.v := rfl
@[simp] theorem State.ackFrame_i : (s.ackFrame).i = s.i := rfl
@[simp] theorem State.ackFrame_pc : (s.ackFrame).pc = s.pc := rfl
@[simp] theorem State.ackFrame_stack : (s.ackFrame).stack = s.stack := rfl
@[simp] theorem State.ackFrame_sp : (s.ackFrame).sp = s.sp := rfl
@[simp] theorem State.ackFrame_dt : (s.ackFrame).dt = s.dt := rfl
@[simp] theorem State.ackFrame_st : (s.ackFrame).st = s.st := rfl
@[simp] theorem State.ackFrame_fb : (s.ackFrame).fb = s.fb := rfl
@[simp] theorem State.ackFrame_df : (s.ackFrame).df = false := rfl
@[simp] theorem State.ackFrame_key : (s.ackFrame).key = s.key := rfl
@[simp] theorem State.ackFrame_mem : (s.ackFrame).mem = s.mem := rfl
@[simp] theorem State.ackFrame_esr : (s.ackFrame).esr = s.esr := rfl
@[simp] theorem State.ackFrame_report : (s.ackFrame).report = s.report := rfl
@[simp] theorem State.ackFrame_rnd : (s.ackFrame).rnd = s.rnd := rfl
@[simp] theorem State.ackFrame_draws : (s.ackFrame).draws = s.draws := rfl

end Sys2Proof.Machine
end

