-- ==== Sys2Proof/Laws/Phases.lean ====
section
/-! SUPPORT. What the shared operations can answer: the two guards, the end of a step, and the step itself
(40_step_cycle.md R81). -/

namespace Sys2Proof.Machine

/-- A guarded memory instruction raises and is otherwise as before, or becomes `t` (20_memory.md R46). -/
theorem State.guardMem_cases (s : State) (count : Nat) (t : State) :
    (outOfRange s.base count ∧ s.guardMem count t = .next (s.raise (.memRange (lowestRejected s.i)))) ∨
    (¬ outOfRange s.base count ∧ s.guardMem count t = .next t) := by
  unfold State.guardMem
  split
  · exact .inl ⟨‹_›, rfl⟩
  · exact .inr ⟨‹_›, rfl⟩

/-- The information word of `MEM_RANGE` (R46). -/
theorem lowestRejected_toNat (i : Word) : (lowestRejected i).toNat = max i.toNat 4096 := by
  unfold lowestRejected
  split <;> simp <;> omega

/-- A memory instruction whose addresses all exist is not stopped by the guard. -/
theorem State.guardMem_of_inRange (s : State) (count : Nat) (t : State) (h : ¬ outOfRange s.base count) :
    s.guardMem count t = .next t := if_neg h

/-- A memory instruction with an address above 4095 raises. -/
theorem State.guardMem_of_outOfRange (s : State) (count : Nat) (t : State) (h : outOfRange s.base count) :
    s.guardMem count t = .next (s.raise (.memRange (lowestRejected s.i))) := if_pos h

/-- A guarded keypad instruction raises and is otherwise as before, or goes on with its key (R161, R162). -/
theorem State.guardKey_cases (s : State) (vx : Byte) (t : Bool → State) :
    (15 < vx.toNat ∧ s.guardKey vx t = .next (s.raise (.keyRange vx))) ∨
    (∃ h : vx.toNat < 16, s.guardKey vx t = .next (t (s.key[vx.toNat]'h))) := by
  unfold State.guardKey
  split
  · exact .inr ⟨‹_›, rfl⟩
  · exact .inl ⟨by omega, rfl⟩

/-- The end of a step keeps the answer's kind. -/
theorem finishResult_next {r : Result} {t : State} (h : r = .next t) : finishResult r = .next t.finish := by
  subst h; rfl

/-- A fetch in range reads the two bytes at `pc`, the lower address first (20_memory.md R43). -/
theorem State.fetch_of_le (s : State) (h : s.pc.toNat ≤ 4094) :
    s.fetch = some (joinBytes (s.mem.read s.pc.toNat) (s.mem.read (s.pc.toNat + 1))) := by
  simp [State.fetch, Nat.not_lt.2 h]

/-- A fetch out of range reads nothing (R82). -/
theorem State.fetch_of_gt (s : State) (h : 4094 < s.pc.toNat) : s.fetch = none := by
  simp [State.fetch, h]

@[simp] theorem State.fetch_begin (s : State) (b : Byte) : (s.begin b).fetch = s.fetch := rfl

/-- A step with a fetched word executes its instruction on the advanced state, then ends (R81). -/
theorem cycle_of_fetch (rnd : Byte) (s : State) (w : Word) (h : s.fetch = some w) :
    cycle rnd s = finishResult (exec (decodeWord w) (s.begin rnd).advancePc) := by
  simp [cycle, h]

/-- A step whose fetch is rejected (R82). -/
theorem cycle_of_rejected (rnd : Byte) (s : State) (h : s.fetch = none) :
    cycle rnd s = .next ((s.begin rnd).raise (.fetchRange s.pc)).finish := by
  simp [cycle, h]

@[simp] theorem State.fetch_countDraw (s : State) : s.countDraw.fetch = s.fetch := rfl

/-- The state the execute phase of a step starts from (R81, R82). -/
def State.atExecute (s : State) : State := (s.countDraw.begin (Config.rnd s.draws)).advancePc

@[simp] theorem State.atExecute_v (s : State) : s.atExecute.v = s.v := rfl
@[simp] theorem State.atExecute_i (s : State) : s.atExecute.i = s.i := rfl
@[simp] theorem State.atExecute_pc (s : State) : s.atExecute.pc = s.pc + 2#16 := rfl
@[simp] theorem State.atExecute_stack (s : State) : s.atExecute.stack = s.stack := rfl
@[simp] theorem State.atExecute_sp (s : State) : s.atExecute.sp = s.sp := rfl
@[simp] theorem State.atExecute_dt (s : State) : s.atExecute.dt = s.dt := rfl
@[simp] theorem State.atExecute_st (s : State) : s.atExecute.st = s.st := rfl
@[simp] theorem State.atExecute_fb (s : State) : s.atExecute.fb = s.fb := rfl
@[simp] theorem State.atExecute_df (s : State) : s.atExecute.df = s.df := rfl
@[simp] theorem State.atExecute_key (s : State) : s.atExecute.key = s.key := rfl
@[simp] theorem State.atExecute_mem (s : State) : s.atExecute.mem = s.mem := rfl
@[simp] theorem State.atExecute_esr (s : State) : s.atExecute.esr = s.esr := rfl
@[simp] theorem State.atExecute_report (s : State) : s.atExecute.report = .none := rfl
@[simp] theorem State.atExecute_rnd (s : State) : s.atExecute.rnd = Config.rnd s.draws := rfl
@[simp] theorem State.atExecute_draws (s : State) : s.atExecute.draws = s.draws + 1 := rfl
@[simp] theorem State.atExecute_getV (s : State) (x : Nibble) : s.atExecute.getV x = s.getV x := rfl

/-- A report's `ESR` bit is bit `code - 1` (R24). -/
theorem Report.esrBit_getLsbD (r : Report) (k : Nat) (hk : k < 6) : r.esrBit.getLsbD k = (r.code == k + 1) := by
  have : k = 0 ∨ k = 1 ∨ k = 2 ∨ k = 3 ∨ k = 4 ∨ k = 5 := by omega
  rcases this with rfl | rfl | rfl | rfl | rfl | rfl <;> cases r <;> simp only [esrBit, code] <;> decide

/-- A step with a fetched word executes its instruction, then ends (R81). -/
theorem step_of_fetch (s : State) (w : Word) (h : s.fetch = some w) :
    step s = finishResult (exec (decodeWord w) s.atExecute) :=
  cycle_of_fetch _ _ w h

/-- A step whose fetch is rejected (R82). -/
theorem step_of_rejected (s : State) (h : s.fetch = none) :
    step s = .next ((s.countDraw.begin (Config.rnd s.draws)).raise (.fetchRange s.pc)).finish :=
  cycle_of_rejected _ _ h

/-- Everything a step can do: its fetch is rejected and it only reports, or it executes the decoded word from
`atExecute` and ends. -/
theorem step_cases {s t : State} (h : step s = .next t) :
    (s.fetch = none ∧ t = ((s.countDraw.begin (Config.rnd s.draws)).raise (.fetchRange s.pc)).finish) ∨
    (∃ w u, s.fetch = some w ∧ exec (decodeWord w) s.atExecute = .next u ∧ t = u.finish) := by
  cases hf : s.fetch with
  | none =>
    rw [step_of_rejected _ hf] at h
    injection h with h
    exact .inl ⟨rfl, h.symm⟩
  | some w =>
    rw [step_of_fetch _ _ hf] at h
    cases he : exec (decodeWord w) s.atExecute with
    | next u =>
      rw [he] at h
      injection h with h
      exact .inr ⟨w, u, rfl, he, h.symm⟩
    | fault r => cases r
    | refused r => rw [he] at h; cases h

/-- A tick as a number: one less, never below 0 (R86). -/
theorem tickDown_toNat (b : Byte) : (tickDown b).toNat = b.toNat - 1 := by
  unfold tickDown
  split
  · simp_all
  · bv_omega

end Sys2Proof.Machine
end

