-- ==== Sys2Proof/Laws/Registers.lean ====
section
/-! SUPPORT. Registers: reads after writes, the flag and result pair, the register load, and skips. -/

namespace Sys2Proof.Machine

/-- A register written reads as the value; every other as before (10_state.md R10). -/
theorem State.getV_setV (s : State) (x y : Nibble) (b : Byte) :
    (s.setV x b).getV y = if y = x then b else s.getV y := by
  by_cases h : y = x
  · subst h; simp [State.getV, State.setV]
  · have hn : x.toNat ≠ y.toNat := fun e => h (BitVec.eq_of_toNat_eq e.symm)
    simp [State.getV, State.setV, h, hn]

@[simp] theorem State.getV_setV_same (s : State) (x : Nibble) (b : Byte) : (s.setV x b).getV x = b := by
  simp [State.getV_setV]

/-- `VF` first and the result second (40_step_cycle.md R85): the result stands where both are one register. -/
theorem State.getV_setFlagged (s : State) (x y : Nibble) (c : Bool) (b : Byte) :
    (s.setFlagged x c b).getV y = if y = x then b else if y = 0xF#4 then flagByte c else s.getV y := by
  simp only [State.setFlagged, State.getV_setV, regF]

/-- The registers are all that `getV` reads. -/
theorem State.getV_congr {s t : State} (h : s.v = t.v) (x : Nibble) : s.getV x = t.getV x := by
  simp [State.getV, h]

/-- Two states agree on every register if and only if their register files are equal. -/
theorem State.v_ext {s t : State} (h : ∀ x : Nibble, s.getV x = t.getV x) : s.v = t.v := by
  apply Vector.ext
  intro k hk
  have := h (BitVec.ofNat 4 k)
  have e : (BitVec.ofNat 4 k).toNat = k := by simp; omega
  simpa [State.getV, e] using this

/-- Loading `n` registers: each of the first `n` holds its byte, every other as before (R146). -/
theorem loadRegFile_get (m : Memory) (a n : Nat) (v : RegFile) (k : Nat) (hk : k < 16) :
    (loadRegFile m a n v)[k] = if k < n then m.read (a + k) else v[k] := by
  induction n with
  | zero => simp [loadRegFile]
  | succ n ih =>
    rw [loadRegFile, Vector.getElem_setIfInBounds, ih]
    by_cases h : n = k
    · subst h; simp
    · rw [if_neg h]
      by_cases h2 : k < n
      · rw [if_pos h2, if_pos (by omega)]
      · rw [if_neg h2, if_neg (by omega)]

/-- A zero-extended address is the same number (30_encoding.md R63). -/
@[simp] theorem zextAddr_toNat (nnn : Addr) : (zextAddr nnn).toNat = nnn.toNat := by
  have := nnn.isLt
  simp [zextAddr]
  omega

/-- A zero-extended byte is the same number. -/
@[simp] theorem zextByte_toNat (b : Byte) : (zextByte b).toNat = b.toNat := by
  have := b.isLt
  simp [zextByte]
  omega

/-- The sum of the indexed jump does not wrap (41_flow.md R105). -/
@[simp] theorem State.indexedTarget_toNat (s : State) (nnn : Addr) :
    (s.indexedTarget nnn).toNat = nnn.toNat + (s.getV 0#4).toNat := by
  have := nnn.isLt
  have := (s.getV 0#4).isLt
  simp [State.indexedTarget]
  omega

@[simp] theorem State.skipIf_false (s : State) : s.skipIf false = s := rfl

@[simp] theorem State.skipIf_true (s : State) : s.skipIf true = s.advancePc := rfl

/-- The bytes the register dump stores: `X + 1` of them, byte `k` from register `k` (R145). -/
@[simp] theorem State.regsUpTo_length (s : State) (x : Nibble) : (s.regsUpTo x).length = regCount x := by
  have := x.isLt
  simp [State.regsUpTo, regCount]
  omega

theorem State.regsUpTo_get (s : State) (x : Nibble) (k : Nat) (hk : k < (s.regsUpTo x).length) (h16 : k < 16) :
    (s.regsUpTo x)[k] = s.v[k] := by
  simp [State.regsUpTo]

end Sys2Proof.Machine
end

