-- ==== Sys2Proof/Laws/Runs.lean ====
section
/-! SUPPORT. Runs of several steps (70_reset_and_hazards.md R208): a run is its first step and the run after it. -/

namespace Sys2Proof.Machine

/-- For any machine, a run of `n + 1` steps whose first step leads to `u` is the run of `n` steps from `u`. -/
theorem machineRun_of_step (M : Host.Core) (n : Nat) {s u : M.State} (h : M.step s = .next u) :
    M.run (n + 1) s = M.run n u := by
  rw [Host.Core.run, h]

/-- For any machine, a run of `n + 1` steps that ends in a state has a first step. -/
theorem machineRun_first (M : Host.Core) (n : Nat) {s t : M.State} (h : M.run (n + 1) s = .next t) :
    ∃ u, M.step s = .next u := by
  rw [Host.Core.run] at h
  cases hs : M.step s with
  | next u => exact ⟨u, rfl⟩
  | fault r => rw [hs] at h; cases h
  | refused r => rw [hs] at h; cases h

theorem run_zero (s : State) : Host.Core.run core 0 s = .next s := rfl

/-- A run of `n + 1` steps whose first step leads to `u` is the run of `n` steps from `u`. -/
theorem run_of_step {s u : State} (n : Nat) (h : step s = .next u) :
    Host.Core.run core (n + 1) s = Host.Core.run core n u := machineRun_of_step core n h

/-- A run of `n + 1` steps that ends in `t` is a step and a run of `n` steps. -/
theorem run_succ_cases {n : Nat} {s t : State} (h : Host.Core.run core (n + 1) s = .next t) :
    ∃ u, step s = .next u ∧ Host.Core.run core n u = .next t := by
  obtain ⟨u, hu⟩ := machineRun_first core n h
  exact ⟨u, hu, (run_of_step n hu).symm.trans h⟩

end Sys2Proof.Machine
end

