-- ==== Sys2Proof/Tests/Slice0.lean ====
section
/-! SUPPORT. Tests on fixed values, expected results from 95_test_vectors.md (ids in the comments) or by hand from the
rule named, and one witness for the hypotheses of each statement. -/

namespace Sys2Proof.Machine.Tests

/-! ## Helpers -/

/-- "Start" of the vectors: the reset state, the draw-flag acknowledged. -/
def start : State := { State.reset with df := false }

/-- Registers set in order. -/
def regs (s : State) : List (Nibble × Byte) → State
  | [] => s
  | (x, b) :: rest => regs (s.setV x b) rest

/-- Pixels switched on. -/
def lit (s : State) : List (Fin 64 × Fin 32) → State
  | [] => s
  | (x, y) :: rest => lit { s with fb := s.fb.put x y true } rest

/-- One whole step of the word `w` at address `a`, the random byte 0. -/
def stepOf (a w : Word) (s : State) : Result := cycle 0#8 ((s.setPc a).storeAll a.toNat (wordBytes w))

/-- The answer is a next state and meets `p`. -/
def after (o : Result) (p : State → Bool) : Bool :=
  match o with
  | .next t => p t
  | .fault _ => false
  | .refused _ => false

/-- How many pixels are on. -/
def litCount (s : State) : Nat := (s.fb.toList.map (fun c => c.toList.countP (· == true))).sum

/-- The bytes hold too few for an instruction. -/
def refusedAsTruncated (bs : List Byte) : Bool :=
  match decode bs with
  | .ok _ => false
  | .error .truncated => true

/-! ## Well-formedness: the two checks refuse what they must -/

/-- `00E0` and `00EE` are not SYS (30_encoding.md R71). -/
theorem test_wf_sys_refuses_defined : WellFormed (.sys 0x0E0#12) = false ∧ WellFormed (.sys 0x0EE#12) = false := by
  decide

theorem test_wf_sys_admits_rest : WellFormed (.sys 0x0E1#12) = true ∧ WellFormed (.sys 0x000#12) = true := by decide

/-- Words of other rows are not `unknown` (R69). -/
theorem test_wf_unknown_refuses_matched :
    [0x0123#16, 0x00E0#16, 0x1234#16, 0x2345#16, 0x3456#16, 0x4567#16, 0x5670#16, 0x6789#16, 0x789A#16, 0x8120#16,
     0x8127#16, 0x812E#16, 0x9120#16, 0xA123#16, 0xB123#16, 0xC123#16, 0xD123#16].all
      (fun w => WellFormed (.unknown w) == false) = true := by decide

theorem test_wf_unknown_refuses_matched_upper :
    [0xE19E#16, 0xE1A1#16, 0xF107#16, 0xF115#16, 0xF118#16, 0xF11E#16, 0xF129#16, 0xF133#16, 0xF155#16, 0xF165#16,
     0xF10A#16].all (fun w => WellFormed (.unknown w) == false) = true := by decide

/-- Rows A21, A25, B33, E8 and E18 of the vectors. -/
theorem test_wf_unknown_admits :
    [0x5341#16, 0x934F#16, 0x8128#16, 0xE59F#16, 0xFFFF#16].all (fun w => WellFormed (.unknown w)) = true := by decide

/-! ## Decoding: every constructor, its word written from R61, R62 and R65 -/

theorem test_decode_control :
    decodeWord 0b0000000011100000#16 = .cls ∧ decodeWord 0b0000000011101110#16 = .ret ∧
    decodeWord 0b0001101010111100#16 = .jp 0xABC#12 ∧ decodeWord 0b0010101010111100#16 = .call 0xABC#12 ∧
    decodeWord 0b1011101010111100#16 = .jpV0 0xABC#12 ∧ decodeWord 0b0000101010111100#16 = .sys 0xABC#12 := by decide

theorem test_decode_skips :
    decodeWord 0b0011010110100111#16 = .seImm 0x5#4 0xA7#8 ∧ decodeWord 0b0100010110100111#16 = .sneImm 0x5#4 0xA7#8 ∧
    decodeWord 0b0101010110100000#16 = .seReg 0x5#4 0xA#4 ∧ decodeWord 0b1001010110100000#16 = .sneReg 0x5#4 0xA#4 ∧
    decodeWord 0b1110010110011110#16 = .skp 0x5#4 ∧ decodeWord 0b1110010110100001#16 = .sknp 0x5#4 := by decide

theorem test_decode_alu :
    decodeWord 0b0110010110100111#16 = .ldImm 0x5#4 0xA7#8 ∧ decodeWord 0b0111010110100111#16 = .addImm 0x5#4 0xA7#8 ∧
    decodeWord 0b1000010110100000#16 = .ldReg 0x5#4 0xA#4 ∧ decodeWord 0b1000010110100001#16 = .orReg 0x5#4 0xA#4 ∧
    decodeWord 0b1000010110100010#16 = .andReg 0x5#4 0xA#4 ∧ decodeWord 0b1000010110100011#16 = .xorReg 0x5#4 0xA#4 ∧
    decodeWord 0b1000010110100100#16 = .addReg 0x5#4 0xA#4 ∧ decodeWord 0b1000010110100101#16 = .subReg 0x5#4 0xA#4 ∧
    decodeWord 0b1000010110100110#16 = .shr 0x5#4 0xA#4 ∧ decodeWord 0b1000010110100111#16 = .subnReg 0x5#4 0xA#4 ∧
    decodeWord 0b1000010110101110#16 = .shl 0x5#4 0xA#4 ∧ decodeWord 0b1100010110100111#16 = .rnd 0x5#4 0xA7#8 := by
  decide

theorem test_decode_memory_and_display :
    decodeWord 0b1010101010111100#16 = .ldI 0xABC#12 ∧ decodeWord 0b1101010110100111#16 = .drw 0x5#4 0xA#4 0x7#4 ∧
    decodeWord 0b1111010100011110#16 = .addI 0x5#4 ∧ decodeWord 0b1111010100101001#16 = .ldF 0x5#4 ∧
    decodeWord 0b1111010100110011#16 = .ldB 0x5#4 ∧ decodeWord 0b1111010101010101#16 = .storeRegs 0x5#4 ∧
    decodeWord 0b1111010101100101#16 = .loadRegs 0x5#4 := by decide

theorem test_decode_timers_and_unknown :
    decodeWord 0b1111010100000111#16 = .ldVxDt 0x5#4 ∧ decodeWord 0b1111010100010101#16 = .ldDtVx 0x5#4 ∧
    decodeWord 0b1111010100011000#16 = .ldStVx 0x5#4 ∧ decodeWord 0b1111010100001010#16 = .ldVxK 0x5#4 ∧
    decodeWord 0b1000010110101000#16 = .unknown 0x85A8#16 ∧ decodeWord 0b1110010110011111#16 = .unknown 0xE59F#16 := by
  decide

/-- Bytes in memory order, the high byte first (20_memory.md R43; vector F1). -/
theorem test_decode_byte_order : decodeTableWord 16 0x6ABC = some (.ldImm 0xA#4 0xBC#8) := by decide

theorem test_decode_refuses_short : refusedAsTruncated [] = true ∧ refusedAsTruncated [0x6A#8] = true := by decide

/-! ## Control transfer (vectors A) -/

/-- A1. -/
theorem test_ret : after (stepOf 0x20C 0x00EE { start with sp := 1, stack := start.stack.set 0 0x0206#16 })
    (fun t => t.pc == 0x0206#16 && t.sp == 0 && t.stack[0] == 0x0206#16 && t.report == .none) = true := by decide

/-- A2. -/
theorem test_ret_underflow : after (stepOf 0x20C 0x00EE start)
    (fun t => t.pc == 0x020E#16 && t.sp == 0 && t.esr == 0x04#6 && t.report == .stackUnderflow 0x020C#16) = true := by
  decide

/-- A5, first step. -/
theorem test_jp : after (stepOf 0x200 0x1FFF start) (fun t => t.pc == 0x0FFF#16 && t.report == .none) = true := by decide

/-- A9: the pushed address is not reduced to 12 bits. -/
theorem test_call : after (stepOf 0xFFE 0x2300 start)
    (fun t => t.pc == 0x0300#16 && t.sp == 1 && t.stack[0] == 0x1000#16 && t.report == .none) = true := by decide

/-- A8. -/
theorem test_call_overflow :
    after (stepOf 0x204 0x2300 { start with sp := 16, stack := Vector.replicate 16 0x0111#16 })
      (fun t => t.pc == 0x0206#16 && t.sp == 16 && t.stack == Vector.replicate 16 0x0111#16 && t.esr == 0x02#6 &&
        t.report == .stackOverflow 0x0204#16) = true := by decide

/-- A11, first step. -/
theorem test_jpV0_no_wrap : after (stepOf 0x200 0xBFFF (regs start [(0, 0xFF)]))
    (fun t => t.pc == 0x10FE#16 && t.report == .none) = true := by decide

/-- A12: the register is `V0`, not `V2`. -/
theorem test_jpV0_register : after (stepOf 0x200 0xB2FE (regs start [(0, 0x03), (2, 0x77)]))
    (fun t => t.pc == 0x0301#16) = true := by decide

/-- A13 and A14. -/
theorem test_seImm : after (stepOf 0x208 0x3100 start) (fun t => t.pc == 0x020C#16) = true ∧
    after (stepOf 0x208 0x3100 (regs start [(1, 0x01)])) (fun t => t.pc == 0x020A#16) = true := by decide

/-- A16 and A17. -/
theorem test_sneImm : after (stepOf 0x210 0x4208 (regs start [(2, 0x07)])) (fun t => t.pc == 0x0214#16) = true ∧
    after (stepOf 0x210 0x4208 (regs start [(2, 0x08)])) (fun t => t.pc == 0x0212#16) = true := by decide

/-- A18 and A19. -/
theorem test_seReg :
    after (stepOf 0x220 0x5340 (regs start [(3, 0x55), (4, 0x55)])) (fun t => t.pc == 0x0224#16) = true ∧
    after (stepOf 0x220 0x5340 (regs start [(3, 0x55), (4, 0x54)])) (fun t => t.pc == 0x0222#16) = true := by
  decide

/-- A22 and A23. -/
theorem test_sneReg :
    after (stepOf 0x220 0x9340 (regs start [(3, 1), (4, 2)])) (fun t => t.pc == 0x0224#16) = true ∧
    after (stepOf 0x220 0x9340 (regs start [(3, 2), (4, 2)])) (fun t => t.pc == 0x0222#16) = true := by decide

/-! ## Register arithmetic and logic (vectors B) -/

/-- B1. -/
theorem test_ldImm : after (stepOf 0x200 0x60EA start) (fun t => t.getV 0 == 0xEA#8 && t.pc == 0x0202#16) = true := by
  decide

/-- B3 and B4. -/
theorem test_addImm : after (stepOf 0x200 0x7001 (regs start [(0, 0xFF)]))
      (fun t => t.getV 0 == 0#8 && t.getV 0xF == 0#8) = true ∧
    after (stepOf 0x200 0x7F01 (regs start [(0xF, 0xFF)])) (fun t => t.getV 0xF == 0#8) = true := by decide

/-- B5. -/
theorem test_ldReg : after (stepOf 0x200 0x8120 (regs start [(2, 0x33)]))
    (fun t => t.getV 1 == 0x33#8 && t.getV 2 == 0x33#8) = true := by decide

/-- B6. -/
theorem test_orReg : after (stepOf 0x200 0x8011 (regs start [(0, 0xF0), (1, 0x0F), (0xF, 7)]))
    (fun t => t.getV 0 == 0xFF#8 && t.getV 0xF == 7#8) = true := by decide

/-- B7. -/
theorem test_andReg : after (stepOf 0x200 0x8012 (regs start [(0, 0xF0), (1, 0x3C), (0xF, 7)]))
    (fun t => t.getV 0 == 0x30#8 && t.getV 0xF == 7#8) = true := by decide

/-- B8. -/
theorem test_xorReg : after (stepOf 0x200 0x8013 (regs start [(0, 0xF0), (1, 0x3C), (0xF, 7)]))
    (fun t => t.getV 0 == 0xCC#8 && t.getV 0xF == 7#8) = true := by decide

/-- L1-4, and B10 with B11: the sums 255 and 256. -/
theorem test_addReg : after (stepOf 0x200 0x8014 (regs start [(0, 200), (1, 100)]))
      (fun t => t.getV 0 == 44#8 && t.getV 0xF == 1#8) = true ∧
    after (stepOf 0x200 0x8014 (regs start [(0, 0xFF), (1, 0)]))
      (fun t => t.getV 0 == 0xFF#8 && t.getV 0xF == 0#8) = true := by decide

/-- B13 and B14: `VF` as destination and as source. -/
theorem test_addReg_flag_register : after (stepOf 0x200 0x8F14 (regs start [(0xF, 0xC8), (1, 0x64)]))
      (fun t => t.getV 0xF == 0x2C#8) = true ∧
    after (stepOf 0x200 0x80F4 (regs start [(0, 0xFF), (0xF, 1)]))
      (fun t => t.getV 0 == 0#8 && t.getV 0xF == 1#8) = true := by decide

/-- B15 and B16. -/
theorem test_subReg : after (stepOf 0x200 0x8015 (regs start [(0, 5), (1, 5)]))
      (fun t => t.getV 0 == 0#8 && t.getV 0xF == 1#8) = true ∧
    after (stepOf 0x200 0x8015 (regs start [(0, 5), (1, 6)]))
      (fun t => t.getV 0 == 0xFF#8 && t.getV 0xF == 0#8) = true := by decide

/-- B19. -/
theorem test_subReg_flag_register : after (stepOf 0x200 0x8F15 (regs start [(0xF, 3), (1, 5)]))
    (fun t => t.getV 0xF == 0xFE#8) = true := by decide

/-- B21: the register named by `Y` is ignored. -/
theorem test_shr : after (stepOf 0x200 0x8016 (regs start [(0, 4), (1, 0xFF)]))
    (fun t => t.getV 0 == 2#8 && t.getV 1 == 0xFF#8 && t.getV 0xF == 0#8) = true := by decide

/-- B20 and B23. -/
theorem test_shr_flag : after (stepOf 0x200 0x8006 (regs start [(0, 5)]))
      (fun t => t.getV 0 == 2#8 && t.getV 0xF == 1#8) = true ∧
    after (stepOf 0x200 0x8F06 (regs start [(0xF, 6)])) (fun t => t.getV 0xF == 3#8) = true := by decide

/-- B24 and B26. -/
theorem test_subnReg : after (stepOf 0x200 0x8017 (regs start [(0, 6), (1, 5)]))
      (fun t => t.getV 0 == 0xFF#8 && t.getV 0xF == 0#8) = true ∧
    after (stepOf 0x200 0x8017 (regs start [(0, 1), (1, 0x10)]))
      (fun t => t.getV 0 == 0x0F#8 && t.getV 0xF == 1#8) = true := by decide

/-- B28 and B29. -/
theorem test_shl : after (stepOf 0x200 0x800E (regs start [(0, 0xFF)]))
      (fun t => t.getV 0 == 0xFE#8 && t.getV 0xF == 1#8) = true ∧
    after (stepOf 0x200 0x800E (regs start [(0, 0x41)]))
      (fun t => t.getV 0 == 0x82#8 && t.getV 0xF == 0#8) = true := by decide

/-- B31. -/
theorem test_rnd : after (cycle 0xA7#8 ((regs start [(3, 0x55)]).storeAll 0x200 (wordBytes 0xC30F)))
    (fun t => t.getV 3 == 0x07#8) = true := by decide

/-! ## Index and memory (vectors C) -/

/-- C2. -/
theorem test_ldI : after (stepOf 0x200 0xAFFF start) (fun t => t.i == 0x0FFF#16) = true := by decide

/-- C4 and C5. -/
theorem test_addI : after (stepOf 0x200 0xF01E { regs start [(0, 1)] with i := 0x0FFF#16 })
      (fun t => t.i == 0x1000#16 && t.getV 0xF == 0#8) = true ∧
    after (stepOf 0x200 0xF01E { regs start [(0, 1)] with i := 0xFFFF#16 }) (fun t => t.i == 0#16) = true := by
  decide

/-- C7 and C9. -/
theorem test_ldF : after (stepOf 0x200 0xF029 (regs start [(0, 0x0F)])) (fun t => t.i == 0x004B#16) = true ∧
    after (stepOf 0x200 0xF029 (regs start [(0, 0xFF)])) (fun t => t.i == 0x04FB#16) = true := by decide

/-- C15: the last three bytes of memory. -/
theorem test_ldB : after (stepOf 0x200 0xF033 { regs start [(0, 0xEA)] with i := 0x0FFD#16 })
    (fun t => t.mem.read 0xFFD == 2#8 && t.mem.read 0xFFE == 3#8 && t.mem.read 0xFFF == 4#8 && t.i == 0x0FFD#16) =
      true := by decide

/-- C16 and C18: rejected whole, no wrap to address 0. -/
theorem test_ldB_range : after (stepOf 0x200 0xF033 { regs start [(0, 0xEA)] with i := 0x0FFE#16 })
      (fun t => t.mem.read 0xFFE == 0#8 && t.esr == 0x08#6 && t.report == .memRange 0x1000#16) = true ∧
    after (stepOf 0x200 0xF033 { regs start [(0, 0xEA)] with i := 0xFFFF#16 })
      (fun t => t.mem.read 0 == 0xF0#8 && t.mem.read 1 == 0x90#8 && t.report == .memRange 0xFFFF#16) = true := by decide

/-- C20. -/
theorem test_storeRegs :
    after (stepOf 0x200 0xF255 { regs start [(0, 1), (1, 2), (2, 3), (3, 4)] with i := 0x0400#16 })
      (fun t => t.mem.read 0x400 == 1#8 && t.mem.read 0x401 == 2#8 && t.mem.read 0x402 == 3#8 &&
        t.mem.read 0x403 == 0#8 && t.i == 0x0400#16) = true := by decide

/-- C22. -/
theorem test_storeRegs_range :
    after (stepOf 0x200 0xF155 { regs start [(0, 0xAB), (1, 0xCD)] with i := 0x0FFF#16 })
      (fun t => t.mem.read 0xFFF == 0#8 && t.esr == 0x08#6 && t.report == .memRange 0x1000#16) = true := by decide

/-- C25. -/
theorem test_loadRegs :
    after (stepOf 0x200 0xF265 ({ regs start [(3, 0x99)] with i := 0x0300#16 }.storeAll 0x300 [2, 3, 4, 5]))
      (fun t => t.getV 0 == 2#8 && t.getV 1 == 3#8 && t.getV 2 == 4#8 && t.getV 3 == 0x99#8 && t.i == 0x0300#16) =
        true := by decide

/-- C27 and C28. -/
theorem test_loadRegs_range : after (stepOf 0x200 0xF165 { regs start [(0, 7), (1, 8)] with i := 0x0FFF#16 })
      (fun t => t.getV 0 == 7#8 && t.getV 1 == 8#8 && t.report == .memRange 0x1000#16) = true ∧
    after (stepOf 0x200 0xF065 start) (fun t => t.getV 0 == 0xF0#8) = true := by decide

/-! ## Display (vectors D) -/

/-- Sprite `S5` of the vectors. -/
def withS5 : State := { start with i := 0x0300#16 }.storeAll 0x300 [0xFF, 0xFF, 0xFF, 0xFF, 0xFF]

/-- D17. -/
theorem test_cls : after (stepOf 0x200 0x00E0 (lit (regs start [(0xF, 3)]) [(1, 0), (5, 5)]))
    (fun t => !t.fb.get 1 0 && !t.fb.get 5 5 && t.getV 0xF == 3#8 && t.df) = true := by decide

/-- D2: 40 pixels, wrapped over the lower edge. -/
theorem test_drw : after (stepOf 0x200 0xD015 (regs withS5 [(1, 30)]))
    (fun t => litCount t == 40 && t.fb.get 7 31 && t.fb.get 0 2 && !t.fb.get 8 0 && t.getV 0xF == 0#8 && t.df) =
      true := by decide

/-- D6: collision; D10: rejected whole. -/
theorem test_drw_collision_and_range :
    after (stepOf 0x200 0xD011 (lit ({ start with i := 0x0300#16 }.storeAll 0x300 [0xC0]) [(1, 0), (5, 5)]))
      (fun t => t.fb.get 0 0 && !t.fb.get 1 0 && t.fb.get 5 5 && t.getV 0xF == 1#8) = true ∧
    after (stepOf 0x200 0xD012 ({ regs start [(0xF, 7)] with i := 0x0FFF#16 }.storeAll 0xFFF [0xFF]))
      (fun t => !t.fb.get 0 0 && !t.fb.get 7 0 && t.getV 0xF == 7#8 && !t.df && t.report == .memRange 0x1000#16) = true := by
  decide

/-! ## Keypad and timers (vectors E) -/

/-- E1 and E7: the key is the value of the register, not the field. -/
theorem test_skp : after (stepOf 0x230 0xE59E { regs start [(5, 0x0A)] with key := start.key.set 10 true })
      (fun t => t.pc == 0x0234#16 && t.report == .none) = true ∧
    after (stepOf 0x230 0xEA9E { regs start [(0xA, 3)] with key := start.key.set 10 true })
      (fun t => t.pc == 0x0232#16) = true := by decide

/-- E5. -/
theorem test_skp_range : after (stepOf 0x230 0xE59E { regs start [(5, 0x10)] with key := start.key.set 0 true })
    (fun t => t.pc == 0x0232#16 && t.esr == 0x20#6 && t.report == .keyRange 0x10#8) = true := by decide

/-- E3 and E4. -/
theorem test_sknp : after (stepOf 0x230 0xE5A1 (regs start [(5, 0x0A)])) (fun t => t.pc == 0x0234#16) = true ∧
    after (stepOf 0x230 0xE5A1 { regs start [(5, 0x0A)] with key := start.key.set 10 true })
      (fun t => t.pc == 0x0232#16) = true := by decide

/-- E6. -/
theorem test_sknp_range : after (stepOf 0x230 0xE5A1 (regs start [(5, 0xFF)]))
    (fun t => t.pc == 0x0232#16 && t.esr == 0x20#6 && t.report == .keyRange 0xFF#8) = true := by decide

/-- E9 and E11. -/
theorem test_ldVxDt : after (stepOf 0x200 0xF307 { start with dt := 8#8 }) (fun t => t.getV 3 == 8#8 && t.dt == 7#8) =
      true ∧
    after (stepOf 0x200 0xF307 { start with dt := 1#8 }) (fun t => t.getV 3 == 1#8 && t.dt == 0#8) = true := by decide

/-- E12 and E13. -/
theorem test_ldDtVx : after (stepOf 0x200 0xF015 (regs start [(0, 0x0A)])) (fun t => t.dt == 9#8) = true ∧
    after (stepOf 0x200 0xF015 { start with dt := 5#8 }) (fun t => t.dt == 0#8) = true := by decide

/-- E16, first step. -/
theorem test_ldStVx : after (stepOf 0x200 0xF018 (regs start [(0, 2)])) (fun t => t.st == 1#8 && t.dt == 0#8) =
    true := by decide

/-! ## Unknown words and the step (vectors D, E and F) -/

/-- D19. -/
theorem test_sys : after (stepOf 0x200 0x00E1 (lit start [(1, 0)]))
    (fun t => t.fb.get 1 0 && !t.df && t.esr == 0x01#6 && t.report == .unknownOpcode 0x00E1#16) = true := by decide

/-- E17. -/
theorem test_ldVxK : after (stepOf 0x200 0xF00A (regs start [(0, 2)]))
    (fun t => t.pc == 0x0202#16 && t.getV 0 == 2#8 && t.report == .unknownOpcode 0xF00A#16) = true := by decide

/-- E18: the timers tick on a reporting step. -/
theorem test_unknown : after (stepOf 0x200 0xFFFF { start with dt := 3#8, st := 1#8 })
    (fun t => t.dt == 2#8 && t.st == 0#8 && t.pc == 0x0202#16 && t.report == .unknownOpcode 0xFFFF#16) = true := by decide

/-- E19: the timers tick on a rejected fetch. -/
theorem test_rejected_fetch : after (step { start with dt := 2#8, pc := 0x0FFF#16 })
    (fun t => t.dt == 1#8 && t.pc == 0x0FFF#16 && t.esr == 0x10#6 && t.report == .fetchRange 0x0FFF#16) = true := by
  decide

/-- F2: an odd `pc` is legal. -/
theorem test_odd_pc : after (step ({ start with pc := 0x0201#16 }.storeAll 0x201 [0x6A, 0xBC]))
    (fun t => t.getV 0xA == 0xBC#8 && t.pc == 0x0203#16) = true := by decide

/-- An instruction placed by `withFetchWord` is the one the next step runs. -/
theorem test_withFetchWord : after (step (State.reset.withFetchWord 16 0x63A7)) (fun t => t.getV 3 == 0xA7#8) = true := by
  decide

/-! ## The host (vectors G) -/

/-- A transaction's state and answer. -/
def performed (o : Host.Outcome (State × Response) Fault Refusal) (p : State → Response → Bool) : Bool :=
  match o with
  | .next (t, r) => p t r
  | .fault _ => false
  | .refused _ => false

/-- G2, G7 and G8. -/
theorem test_host_moves :
    performed (perform (.loadProgram [0xAA]) State.reset) (fun t r => t.mem == [(0x200, 0xAA#8)] && r == .loaded) = true ∧
    performed (perform .ackFrame State.reset) (fun t _ => t == start) = true ∧
    performed (perform (.setKey 7 true) State.reset) (fun t _ => t.key[7] && !t.key[6]) = true := by decide

/-- Loading twice in one boot breaks the order; reset, load, key and step keep it (R204, R205). -/
theorem test_host_order :
    HostOrder .off [.initializeBlock Config.defaultFont, .loadProgram [0x12, 0x00], .setKey 7 true, .step 0] = true ∧
    HostOrder .off [.initializeBlock Config.defaultFont, .loadProgram [0x12], .loadProgram [0x12]] = false ∧
    HostOrder .off [.loadProgram [0x12]] = false := by decide

/-! ## Witnesses: states and operands that meet the hypotheses of the statements, clause by clause -/

/-- DecimalDigitsStored: `I` at 4093 and 4094, the two sides of the limit, and at the top. -/
theorem test_witness_DecimalDigitsStored :
    (0x0FFD#16).toNat + 2 ≤ 4095 ∧ (0x0FFE#16).toNat + 2 > 4095 ∧
    after (exec (.ldB 0) { regs start [(0, 0xFF)] with i := 0x0FFD#16 })
      (fun t => t.mem.read 0xFFD == 2#8 && t.mem.read 0xFFE == 5#8 && t.mem.read 0xFFF == 5#8) = true ∧
    after (exec (.ldB 0) { start with i := 0x0FFE#16 }) (fun t => t.report == .memRange 0x1000#16) = true ∧
    after (exec (.ldB 0) { start with i := 0xFFFF#16 }) (fun t => t.report == .memRange 0xFFFF#16) = true := by decide

/-- RegisterDump: the last address 4095 and 4096, with `x = 15` and `x = 0`. -/
theorem test_witness_RegisterDump :
    (0x0FF0#16).toNat + (0xF#4).toNat ≤ 4095 ∧ (0x0FF1#16).toNat + (0xF#4).toNat > 4095 ∧
    (0x1000#16).toNat + (0x0#4).toNat > 4095 ∧
    after (exec (.storeRegs 0xF) { regs start [(0xF, 9)] with i := 0x0FF0#16 })
      (fun t => t.mem.read 0xFFF == 9#8 && t.report == .none) = true ∧
    after (exec (.storeRegs 0xF) { start with i := 0x0FF1#16 }) (fun t => t.report == .memRange 0x1000#16) = true := by
  decide

/-- RegisterLoad: the last address 4095 and 4096. -/
theorem test_witness_RegisterLoad :
    (0x0FF0#16).toNat + (0xF#4).toNat ≤ 4095 ∧ (0x0FF1#16).toNat + (0xF#4).toNat > 4095 ∧ 0x0#4 < 0x1#4 ∧
    after (exec (.loadRegs 0) { regs start [(0, 9), (1, 8)] with i := 0x0FFF#16 })
      (fun t => t.getV 0 == 0#8 && t.getV 1 == 8#8) = true ∧
    after (exec (.loadRegs 0xF) { start with i := 0x0FF1#16 }) (fun t => t.report == .memRange 0x1000#16) = true := by
  decide

/-- FetchSeesStoredBytes: a dump of `V0` and `V1` over the word at `pc`. -/
theorem test_witness_FetchSeesStoredBytes :
    (0x0300#16).toNat + (0x1#4).toNat ≤ 4095 ∧ 0x1#4 ≤ 0x1#4 ∧ (0x1#4).toNat = (0x0#4).toNat + 1 ∧
    (0x0300#16).toNat = (0x0300#16).toNat + (0x0#4).toNat ∧
    after (exec (.storeRegs 0x1) { regs start [(0, 0x6A), (1, 0xBC)] with i := 0x0300#16, pc := 0x0300#16 })
      (fun t => t.fetch == some 0x6ABC#16) = true := by decide

/-- DrawFlipsCoveredPixels: no row at any `I`, and one row whose byte is the last of memory. -/
theorem test_witness_DrawFlipsCoveredPixels :
    (0x0#4 = 0#4 ∨ (0xFFFF#16).toNat + (0x0#4).toNat - 1 ≤ 4095) ∧ ((0x0FFF#16).toNat + (0x1#4).toNat - 1 ≤ 4095) ∧
    after (exec (.drw 0 1 0) { regs start [(0xF, 1)] with i := 0xFFFF#16 })
      (fun t => t.getV 0xF == 0#8 && t.df && t.report == .none) = true ∧
    after (exec (.drw 0 1 1) ({ start with i := 0x0FFF#16 }.storeAll 0xFFF [0x81]))
      (fun t => t.fb.get 0 0 && t.fb.get 7 0 && !t.fb.get 1 0 && t.getV 0xF == 0#8) = true := by decide

/-- A state with pixel (1, 0) on and the sprite byte `C0` at `I`. -/
def overlap : State := lit ({ start with i := 0x0300#16 }.storeAll 0x300 [0xC0]) [(1, 0)]

/-- Both cases of DrawFlipsCoveredPixels: a sprite bit on a pixel that is on, and none. -/
theorem test_witness_Collides : Collides overlap 0 0 1 ∧ ¬ Collides overlap 0 0 0 :=
  ⟨⟨1, 0, ⟨0, 1, by decide, by decide, by decide, by decide, by decide⟩, by decide⟩,
    fun ⟨_, _, ⟨_, _, h, _⟩, _⟩ => absurd h (Nat.not_lt_zero _)⟩

/-- DrawRejectedWhole: the last row at 4096, and fifteen rows from 4082. -/
theorem test_witness_DrawRejectedWhole :
    0x2#4 ≠ 0#4 ∧ (0x0FFF#16).toNat + (0x2#4).toNat - 1 > 4095 ∧ (0x0FF2#16).toNat + (0xF#4).toNat - 1 > 4095 ∧
    after (exec (.drw 0 1 2) { start with i := 0x0FFF#16 }) (fun t => t.report == .memRange 0x1000#16) = true ∧
    after (exec (.drw 0 1 0xF) { start with i := 0x0FF2#16 }) (fun t => t.report == .memRange 0x1000#16) = true := by
  decide

/-- DrawTwiceRestoresFrame, the sprite on a blank framebuffer: its hypotheses, and L1-2's collision. -/
theorem test_witness_DrawTwiceRestoresFrame :
    0x0#4 ≠ 0xF#4 ∧ 0x1#4 ≠ 0xF#4 ∧ (0x1#4 = 0#4 ∨ withS5.i.toNat + (0x1#4).toNat - 1 ≤ 4095) ∧
    (∀ px py, withS5.fb.get px py = false) ∧ withS5.mem.read (withS5.i.toNat + 0) ≠ 0#8 ∧
    after (exec (.drw 0 1 1) withS5) (fun t => after (exec (.drw 0 1 1) t)
      (fun u => !u.fb.get 0 0 && u.getV 0xF == 1#8)) = true := by decide

/-- KeySkips: the values 15 and 16. -/
theorem test_witness_KeySkips :
    (0x0F#8).toNat < 16 ∧ (0x10#8).toNat > 15 ∧
    after (exec (.skp 0) { regs start [(0, 0x0F)] with key := start.key.set 15 true })
      (fun t => t.pc == 0x0202#16 && t.report == .none) = true ∧
    after (exec (.sknp 0) (regs start [(0, 0x10)])) (fun t => t.pc == 0x0200#16 && t.report == .keyRange 0x10#8) = true := by
  decide

/-- DelayTimerAccess and SoundTimerWrite: states whose next instruction is each of the three. -/
theorem test_witness_timers :
    (start.storeAll 0x200 [0xF3, 0x07]).nextInstr = some (.ldVxDt 3) ∧
    (start.storeAll 0x200 [0xF3, 0x15]).nextInstr = some (.ldDtVx 3) ∧
    (start.storeAll 0x200 [0xF3, 0x18]).nextInstr = some (.ldStVx 3) := by decide

/-- CallPushesReturnAddress: `sp` at 15 and at 16; CallThenReturn: the state after the call, unchanged. -/
theorem test_witness_CallPushesReturnAddress :
    (15 : Fin 17).val < 16 ∧ (16 : Fin 17).val = 16 ∧
    after (exec (.call 0x300) { start with sp := 15 })
      (fun t => t.sp == 16 && t.stack[15] == 0x0200#16 && after (exec .ret t) (fun u => u.pc == 0x0200#16 && u.sp == 15)) =
        true ∧
    after (exec (.call 0x300) { start with sp := 16, pc := 0x0206#16 })
      (fun t => t.sp == 16 && t.report == .stackOverflow 0x0204#16) = true := by decide

/-- ReturnPopsStack: `sp` at 16, 1 and 0. -/
theorem test_witness_ReturnPopsStack :
    (16 : Fin 17).val = (15 : Fin 16).val + 1 ∧ (1 : Fin 17).val = (0 : Fin 16).val + 1 ∧ (0 : Fin 17).val = 0 ∧
    after (exec .ret { start with sp := 16, stack := start.stack.set 15 0x031E#16 })
      (fun t => t.pc == 0x031E#16 && t.sp == 15) = true ∧
    after (exec .ret { start with pc := 0x0202#16 }) (fun t => t.report == .stackUnderflow 0x0200#16) = true := by decide

/-- JumpSetsPc, IndexedJumpAddsV0 and SkipOnImmediate: the fetch after a target above 4094 (A5, A11, A26); a sum of
4094 is fetched. -/
theorem test_witness_targets :
    (0xFFF#12).toNat + (0xFF#8).toNat > 4094 ∧ ¬ ((0xFFE#12).toNat + (0x00#8).toNat > 4094) ∧
    after (exec (.jp 0xFFF) start) (fun t => after (step t) (fun u => u.report == .fetchRange 4095#16)) = true ∧
    after (exec (.jpV0 0xFFF) (regs start [(0, 0xFF)]))
      (fun t => after (step t) (fun u => u.report == .fetchRange 0x10FE#16)) = true ∧
    after (exec (.seImm 0 0) { start with pc := 4096#16 })
      (fun t => after (step t) (fun u => u.report == .fetchRange 4098#16)) = true := by decide

/-- SkipOnRegister: low nibbles other than 0, the least and the greatest. -/
theorem test_witness_SkipOnRegister :
    0x1#4 ≠ 0x0#4 ∧ 0xF#4 ≠ 0x0#4 ∧ decodeWord 0x5341 = .unknown 0x5341 ∧ decodeWord 0x934F = .unknown 0x934F := by decide

/-- The flag registers' clauses hold for `x` other than 15, and the frames' for a third register. -/
theorem test_witness_flag_clauses :
    0x0#4 ≠ 0xF#4 ∧ 0x2#4 ≠ 0x0#4 ∧ 0x2#4 ≠ 0xF#4 ∧
    after (exec (.addReg 0 1) (regs start [(0, 200), (1, 100), (2, 7)]))
      (fun t => t.getV 0 == 44#8 && t.getV 0xF == 1#8 && t.getV 2 == 7#8) = true := by decide

/-- StepRunsDecodedInstruction and FetchIsBigEndian: the last address a word is fetched from. -/
theorem test_witness_StepRunsDecodedInstruction :
    let s := { start with pc := 0x0FFE#16 }.storeAll 0xFFE [0x63, 0xA7]
    s.pc.toNat ≤ 4094 ∧ decode [s.mem.read s.pc.toNat, s.mem.read (s.pc.toNat + 1)] = .ok (.ldImm 3 0xA7, []) ∧
    after (exec (.ldImm 3 0xA7) s.atExecute) (fun t => t.getV 3 == 0xA7#8) = true ∧
    s.fetch = some 0x63A7#16 :=
  ⟨by decide, rfl, by decide, by decide⟩

/-- RejectedFetchOnlyReports: the least and the greatest rejected `pc`. -/
theorem test_witness_RejectedFetchOnlyReports :
    (0x0FFF#16).toNat > 4094 ∧ (0xFFFF#16).toNat > 4094 ∧
    after (step { start with pc := 0xFFFF#16 }) (fun t => t.pc == 0xFFFF#16 && t.report == .fetchRange 0xFFFF#16) =
      true := by decide

/-- PcLawOverOneStep and StepReportsTableConditions: a step that fetches, and one whose fetch is rejected. -/
theorem test_witness_PcLawOverOneStep :
    (start.storeAll 0x200 [0x12, 0x34]).nextInstr = some (.jp 0x234) ∧
    after (step (start.storeAll 0x200 [0x12, 0x34])) (fun t => t.pc == 0x0234#16) = true ∧
    { start with pc := 0x0FFF#16 }.nextInstr = none ∧
    after (step { start with pc := 0x0FFF#16 }) (fun t => t.pc == 0x0FFF#16) = true := by decide

/-- RegisterUseTable: `LD V0,V1` from two states that differ in `V3` alone. -/
theorem test_witness_RegisterUseTable :
    let s := regs start [(1, 7)]
    let s' := regs start [(1, 7), (3, 9)]
    s' = { s with v := s'.v } ∧ (∀ r, readsV (.ldReg 0 1) r = true → s'.getV r = s.getV r) ∧ s.report = .none ∧
    writesV (.ldReg 0 1) 0 = true ∧ writesV (.ldReg 0 1) 3 = false ∧
    after (exec (.ldReg 0 1) s) (fun t => t.report == .none && t.getV 0 == 7#8) = true ∧
    after (exec (.ldReg 0 1) s') (fun t => t.getV 0 == 7#8 && t.getV 3 == 9#8) = true :=
  ⟨rfl, by decide, rfl, by decide, by decide, by decide, by decide⟩

/-- StateUseTable: an instruction that answers a next state, for each kind of use. -/
theorem test_witness_StateUseTable :
    [Instr.ldImm 0 1, .ldI 1, .jp 1, .call 1, .ret, .cls, .ldB 0, .ldDtVx 0, .ldStVx 0, .sys 0].map stateUse =
      [.registers, .index, .pcOnly, .call, .ret, .screen, .memory, .delay, .sound, .nothing] ∧
    [Instr.ldImm 0 1, .ldI 1, .jp 1, .call 1, .ret, .cls, .ldB 0, .ldDtVx 0, .ldStVx 0, .sys 0].all
      (fun i => after (exec i start) (fun _ => true)) = true := by decide

/-- A jump to itself, timers running (L1-7). -/
def spin : State := { start with dt := 10#8, st := 3#8 }.storeAll 0x200 [0x12, 0x00]

/-- TimersTickEveryStep: a step whose instruction writes no timer. -/
theorem test_witness_TimersTickEveryStep :
    (∀ x, spin.nextInstr ≠ some (.ldDtVx x)) ∧ (∀ x, spin.nextInstr ≠ some (.ldStVx x)) ∧
    after (step spin) (fun t => t.dt == 9#8 && t.st == 2#8) = true := by decide

/-- The state after one step of `spin`. -/
def spinNext : State := { spin with dt := 9#8, st := 2#8, rnd := Config.rnd 0, draws := 1 }

theorem test_spin_step : step spin = .next spinNext := rfl

/-- EveryInstructionTakesOneStep: the longest instruction, a draw of fifteen rows (40_step_cycle.md R89), is done after
one step, `pc` at the next; the count of steps goes up by one. -/
theorem test_witness_EveryInstructionTakesOneStep :
    (start.storeAll 0x200 [0xD0, 0x1F]).nextInstr = some (.drw 0 1 0xF) ∧
    after (step (start.storeAll 0x200 [0xD0, 0x1F])) (fun t => t.pc == 0x0202#16 && t.df && t.draws == 1) = true ∧
    Host.Core.run core 1 spin = .next spinNext ∧ spinNext.draws = spin.draws + 1 :=
  ⟨by decide, by decide, run_of_step 0 test_spin_step, rfl⟩

/-- TimersDecayOverRun and EsrRecordsReportsOfRun: a run of one step that writes no timer. -/
theorem test_witness_TimersDecayOverRun :
    Host.Core.run core 1 spin = .next spinNext ∧ spinNext.dt = 9#8 ∧ spinNext.st = 2#8 ∧
    ∀ k u, k < 1 → Host.Core.run core k spin = .next u →
      ∀ x, u.nextInstr ≠ some (.ldDtVx x) ∧ u.nextInstr ≠ some (.ldStVx x) := by
  refine ⟨run_of_step 0 test_spin_step, rfl, rfl, ?_⟩
  rintro k u hk h x
  obtain rfl : k = 0 := by omega
  cases h
  exact ⟨test_witness_TimersTickEveryStep.1 x, test_witness_TimersTickEveryStep.2.1 x⟩

/-- EsrRecordsReportsOfRun: a reporting step from a state with another bit already set. -/
theorem test_witness_EsrRecordsReportsOfRun :
    5 < 6 ∧ after (step { start with pc := 0x0FFF#16, esr := 0x01#6 }) (fun t => t.esr == 0x11#6) = true := by decide

/-- ReportsArePrecise: P5's first step, and a rejected fetch. -/
theorem test_witness_ReportsArePrecise :
    after (step (start.storeAll 0x200 [0x00, 0xEE]))
      (fun t => t.report != .none && t.report.code != 5 && t.pc == 0x0202#16 && t.esr == 0x04#6) = true ∧
    after (step { start with pc := 0x1000#16 }) (fun t => t.report != .none && t.report.code == 5 && t.pc == 0x1000#16) =
      true := by decide

/-- RandomByteMattersOnlyForRnd: a step that executes no RND. -/
theorem test_witness_RandomByteMattersOnlyForRnd :
    (∀ x nn, spin.nextInstr ≠ some (.rnd x nn)) ∧ after (cycle 0x11#8 spin) (fun t => t.rnd == 0x11#8) = true :=
  ⟨fun _ _ h => Instr.noConfusion (Option.some.inj (show some (Instr.jp 0x200) = _ from h)), by decide⟩

/-- StepKeepsInvariant and TransactionsKeepInvariant: a state with bytes listed at both ends of memory, `pc` at its
greatest value and a full stack; each kind of transaction answers from it. -/
def busy : State :=
  { start with pc := 0x10FE#16, sp := 16, stack := Vector.replicate 16 0x1000#16, mem := [(0, 0x00), (4095, 0xFF)] }

theorem test_witness_StepKeepsInvariant : busy.Inv ∧ after (step busy) (fun t => t.pc == 0x10FE#16) = true := by decide

theorem test_witness_TransactionsKeepInvariant :
    [Transaction.initializeBlock Config.defaultFont, .loadProgram [1], .setKey 0 true, .step 0, .readFrame, .ackFrame].all
      (fun a => performed (perform a busy) (fun _ _ => true)) = true := by decide

/-- The invariant refuses an entry equal to what reset leaves, one above 4095, and a repeated address. -/
theorem test_invariant_refuses :
    ¬ { start with mem := [(0, 0xF0)] }.Inv ∧ ¬ { start with mem := [(4096, 1)] }.Inv ∧
    ¬ { start with mem := [(5, 1), (5, 2)] }.Inv ∧ ¬ { start with pc := 0x10FF#16 }.Inv := by decide

/-- ResetValues, InitializeTwiceIsOnce, InitializeCopiesFont: the font's first and last byte, and the byte above. -/
theorem test_witness_ResetValues :
    0 < 80 ∧ 79 < 80 ∧ 80 ≤ 80 ∧ State.reset.mem.read 0 = 0xF0#8 ∧ State.reset.mem.read 79 = 0x80#8 ∧
    State.reset.mem.read 80 = 0#8 ∧ State.reset.mem.read 0x32 = 0xF0#8 ∧ State.reset.mem.read 0x33 = 0x90#8 := by decide

/-- LoadProgramWholeOrNothing: images of 3584 and 3585 bytes. -/
theorem test_witness_LoadProgramWholeOrNothing :
    (List.replicate 3584 0xAA#8).length ≤ 3584 ∧ (List.replicate 3585 0xAA#8).length > 3584 ∧ 3583 < 3584 := by
  simp only [List.length_replicate]
  decide

/-- DecodeUndoesEncode: a well-formed instruction with rest, and the words at the edges of the reserved rows. -/
theorem test_witness_DecodeUndoesEncode :
    WellFormed (.drw 1 2 5) = true ∧ WellFormed (.sys 0xFFF) = true ∧ WellFormed (.unknown 0xFFFF) = true ∧
    encodeBytes (.drw 1 2 5) = [0xD1, 0x25] := by decide

end Sys2Proof.Machine.Tests
end

section
/-!
The fetched word as a number (20_memory.md R43): what two joined bytes are worth, and the fetch in range.
-/
namespace Sys2Proof

/-- The first byte joined is bits 15 to 8 (20_memory.md R43). -/
@[simp] theorem joinBytes_toNat (hi lo : Byte) : (joinBytes hi lo).toNat = hi.toNat * 256 + lo.toNat := by
  have hlo : lo.toNat < 2 ^ 8 := lo.isLt
  calc (joinBytes hi lo).toNat
    _ = hi.toNat <<< 8 ||| lo.toNat := BitVec.toNat_append hi lo
    _ = hi.toNat <<< 8 + lo.toNat := (Nat.shiftLeft_add_eq_or_of_lt hlo hi.toNat).symm
    _ = hi.toNat * 256 + lo.toNat := by rw [Nat.shiftLeft_eq]

end Sys2Proof

namespace Sys2Proof.Machine

/-- Settles O34: a fetch in range joins the byte at `pc` with the byte above it, the lower address first. -/
theorem fetchIsBigEndian : Obligations.FetchIsBigEndian :=
  fun s hpc => ⟨_, s.fetch_of_le hpc, joinBytes_toNat _ _⟩

end Sys2Proof.Machine
end

section
/-!
Jumps and skips (41_flow.md sections 2 and 3): the report of a fetch above 4094, a skip as an update of `pc` alone,
and the unknown words of the two register-compare families.
-/
namespace Sys2Proof

/-- Families 5 and 9 have the one sub-selector 0 (30_encoding.md R67, R69; 41_flow.md R108, R109). -/
theorem decodeWord_registerSkip_unknown {f n : Nibble} (x y : Nibble) (hf : f = 0x5#4 ∨ f = 0x9#4) (hn : n ≠ 0x0#4) :
    decodeWord (f ++ x ++ y ++ n) = .unknown (f ++ x ++ y ++ n) := by
  rcases hf with rfl | rfl
  · simp [decodeWord, hn]
  · simp [decodeWord, hn]

end Sys2Proof

namespace Sys2Proof.Machine

/-- A step from `pc` above 4094 reports it (40_step_cycle.md R82). -/
theorem step_reports_fetchRange (s : State) (h : 4094 < s.pc.toNat) :
    ∃ u, step s = .next u ∧ u.report = .fetchRange s.pc :=
  ⟨_, step_of_rejected s (s.fetch_of_gt h), rfl⟩

/-- A skip changes `pc` at most (41_flow.md section 3). -/
theorem State.skipIf_eq (s : State) (c : Bool) : s.skipIf c = { s with pc := if c then s.pc + 2#16 else s.pc } := by
  cases c <;> rfl

/-- A skip on equality, its condition as a proposition (R106, R108). -/
theorem State.skipIf_beq (s : State) (a b : Byte) :
    s.skipIf (a == b) = { s with pc := if a = b then s.pc + 2#16 else s.pc } := by
  simp only [State.skipIf_eq, beq_iff_eq]

/-- A skip on inequality, its condition as a proposition (R107, R109). -/
theorem State.skipIf_bne (s : State) (a b : Byte) :
    s.skipIf (a != b) = { s with pc := if a ≠ b then s.pc + 2#16 else s.pc } := by
  simp only [State.skipIf_eq, bne_iff_ne]

/-- Settles O24: the target is the zero-extended address, and 4095 is above the last fetchable one. -/
theorem jumpSetsPc : Obligations.JumpSetsPc := by
  refine fun nnn => ⟨Laws.RoundTrip.jp nnn rfl, fun s => ⟨_, exec_jp nnn s, rfl, zextAddr_toNat nnn, ?_⟩⟩
  rintro rfl
  exact step_reports_fetchRange (s.setPc (zextAddr 0xFFF#12)) (by decide : 4094 < (zextAddr 0xFFF#12).toNat)

/-- Settles O25: the sum of an address and a byte fits 16 bits, so it is the target itself. -/
theorem indexedJumpAddsV0 : Obligations.IndexedJumpAddsV0 := by
  refine fun nnn => ⟨Laws.RoundTrip.jpV0 nnn rfl, fun s => ?_⟩
  have hpc : (s.setPc (s.indexedTarget nnn)).pc.toNat = nnn.toNat + (s.getV 0#4).toNat := s.indexedTarget_toNat nnn
  have hbound : nnn.toNat + (s.getV 0#4).toNat ≤ 0x10FE := by
    have := nnn.isLt
    have := (s.getV 0#4).isLt
    omega
  exact ⟨_, exec_jpV0 nnn s, rfl, hpc, hpc.trans_le hbound, fun h => step_reports_fetchRange _ (hpc ▸ h)⟩

/-- Settles O29: each skip tests its register against the immediate; 4098 is above the last fetchable address. -/
theorem skipOnImmediate : Obligations.SkipOnImmediate := by
  refine fun x nn => ⟨Laws.RoundTrip.seImm x nn rfl, Laws.RoundTrip.sneImm x nn rfl, fun s => ⟨?_, ?_, fun hpc => ?_⟩⟩
  · rw [exec_seImm, State.skipIf_beq]
  · rw [exec_sneImm, State.skipIf_bne]
  · have h4098 : s.pc + 2#16 = 4098#16 := by rw [hpc]; rfl
    rw [h4098]
    exact step_reports_fetchRange { s with pc := 4098#16 } (by decide : 4094 < (4098#16).toNat)

/-- Settles O30: sub-selector 0 is the skip, any other an unknown word; each skip compares two registers. -/
theorem skipOnRegister : Obligations.SkipOnRegister := by
  refine fun x y => ⟨Laws.RoundTrip.seReg x y rfl, Laws.RoundTrip.sneReg x y rfl, fun n hn => ⟨?_, ?_⟩,
    fun s => ⟨?_, ?_⟩⟩
  · exact decodeWord_registerSkip_unknown x y (.inl rfl) hn
  · exact decodeWord_registerSkip_unknown x y (.inr rfl) hn
  · rw [exec_seReg, State.skipIf_beq]
  · rw [exec_sneReg, State.skipIf_bne]

end Sys2Proof.Machine
end

section
/-!
Register arithmetic (42_alu.md): what stands in the destination, in `VF` and in every other register after the two
forms of register write, and the differences and flags of R132 as numbers.
-/
namespace Sys2Proof.Machine

/-- A register other than the one written keeps its value (10_state.md R10). -/
theorem State.getV_setV_of_ne (s : State) (b : Byte) {x y : Nibble} (h : y ≠ x) : (s.setV x b).getV y = s.getV y := by
  rw [State.getV_setV, if_neg h]

/-- The destination holds the result, also where it is `VF` (40_step_cycle.md R85). -/
@[simp] theorem State.getV_setFlagged_same (s : State) (x : Nibble) (c : Bool) (b : Byte) :
    (s.setFlagged x c b).getV x = b := by
  rw [State.getV_setFlagged, if_pos rfl]

/-- `VF` holds the flag where it is not the destination (40_step_cycle.md R85). -/
theorem State.getV_setFlagged_flag (s : State) (c : Bool) (b : Byte) {x : Nibble} (h : x ≠ 0xF#4) :
    (s.setFlagged x c b).getV 0xF#4 = flagByte c := by
  rw [State.getV_setFlagged, if_neg h.symm, if_pos rfl]

/-- A register that is neither the destination nor `VF` keeps its value. -/
theorem State.getV_setFlagged_of_ne (s : State) (c : Bool) (b : Byte) {x z : Nibble} (hx : z ≠ x) (hf : z ≠ 0xF#4) :
    (s.setFlagged x c b).getV z = s.getV z := by
  rw [State.getV_setFlagged, if_neg hx, if_neg hf]

/-- A difference of bytes wraps modulo 256 (R132). -/
theorem byte_toNat_sub (p q : Byte) : (p - q).toNat = (p.toNat + 256 - q.toNat) % 256 := by
  have hq : q.toNat < 256 := q.isLt
  rw [BitVec.toNat_sub]
  omega

/-- The carry as `VF` holds it (R127). -/
theorem flagByte_carryOf (p q : Byte) : flagByte (carryOf p q) = if p.toNat + q.toNat > 255 then 1#8 else 0#8 := by
  simp only [flagByte, carryOf, decide_eq_true_eq, gt_iff_lt]

/-- The absence of a borrow as `VF` holds it, equality included (R128, R130). -/
theorem flagByte_noBorrowOf (p q : Byte) : flagByte (noBorrowOf p q) = if p.toNat ≥ q.toNat then 1#8 else 0#8 := by
  simp only [flagByte, noBorrowOf, decide_eq_true_eq, ge_iff_le]

/-- A difference and its absence of a borrow, written to `Vx` and `VF`: what SUB and SUBN share (R128, R130). -/
theorem State.setFlagged_difference (s : State) (x : Nibble) (p q : Byte) :
    ((s.setFlagged x (noBorrowOf p q) (p - q)).getV x).toNat = (p.toNat + 256 - q.toNat) % 256 ∧
    (x ≠ 0xF#4 → (s.setFlagged x (noBorrowOf p q) (p - q)).getV 0xF#4 =
      if p.toNat ≥ q.toNat then 1#8 else 0#8) ∧
    ∀ z, z ≠ x → z ≠ 0xF#4 → (s.setFlagged x (noBorrowOf p q) (p - q)).getV z = s.getV z := by
  refine ⟨?_, fun hx => ?_, fun _ hx hf => s.getV_setFlagged_of_ne _ _ hx hf⟩
  · rw [State.getV_setFlagged_same, byte_toNat_sub]
  · rw [State.getV_setFlagged_flag _ _ _ hx, flagByte_noBorrowOf]

/-- Settles O1: the one register written holds the immediate. -/
theorem loadImmediateSetsRegister : Obligations.LoadImmediateSetsRegister :=
  fun x nn => ⟨Laws.RoundTrip.ldImm x nn rfl, fun s =>
    ⟨_, exec_ldImm x nn s, rfl, s.getV_setV_same x nn, fun _ hy => s.getV_setV_of_ne nn hy⟩⟩

/-- Settles O2: the sum wraps, and the destination is the one register written. -/
theorem addImmediateWrapsAndSetsNoFlag : Obligations.AddImmediateWrapsAndSetsNoFlag := by
  refine fun x nn => ⟨Laws.RoundTrip.addImm x nn rfl, fun s =>
    ⟨_, exec_addImm x nn s, rfl, ?_, fun _ hy => s.getV_setV_of_ne _ hy⟩⟩
  rw [State.getV_setV_same]
  exact BitVec.toNat_add _ _

/-- Settles O5: the flag is the carry, the result written after it the wrapped sum. -/
theorem addRegistersSetsCarry : Obligations.AddRegistersSetsCarry := by
  refine fun x y => ⟨Laws.RoundTrip.addReg x y rfl, fun s =>
    ⟨_, exec_addReg x y s, rfl, ?_, fun hx => ?_, fun _ hx hf => s.getV_setFlagged_of_ne _ _ hx hf⟩⟩
  · rw [State.getV_setFlagged_same]
    exact BitVec.toNat_add _ _
  · rw [State.getV_setFlagged_flag _ _ _ hx, flagByte_carryOf]

/-- Settles O6: the difference `Vx - Vy` and its flag. -/
theorem subtractSetsNoBorrow : Obligations.SubtractSetsNoBorrow :=
  fun x y => ⟨Laws.RoundTrip.subReg x y rfl, fun s =>
    ⟨_, exec_subReg x y s, rfl, s.setFlagged_difference x (s.getV x) (s.getV y)⟩⟩

/-- Settles O7: the difference `Vy - Vx` and its flag, the destination still `Vx`. -/
theorem reversedSubtractSetsNoBorrow : Obligations.ReversedSubtractSetsNoBorrow :=
  fun x y => ⟨Laws.RoundTrip.subnReg x y rfl, fun s =>
    ⟨_, exec_subnReg x y s, rfl, s.setFlagged_difference x (s.getV y) (s.getV x)⟩⟩

/-- Settles O9: a bit outside the mask is cleared, whatever the random byte. -/
theorem randomByteIsMasked : Obligations.RandomByteIsMasked := by
  refine fun x nn => ⟨Laws.RoundTrip.rnd x nn rfl, fun s =>
    ⟨_, exec_rnd x nn s, rfl, s.getV_setV_same x _, ?_, fun _ hy => s.getV_setV_of_ne _ hy⟩⟩
  calc (s.setV x (s.rnd &&& nn)).getV x &&& ~~~nn
    _ = s.rnd &&& nn &&& ~~~nn := by rw [State.getV_setV_same]
    _ = s.rnd &&& (nn &&& ~~~nn) := BitVec.and_assoc _ _ _
    _ = 0#8 := by simp

end Sys2Proof.Machine
end

section
/-!
The index register and the decimal store (43_index_memory.md R141, R144): what each address reads after consecutive
stores, by its distance from the first, and the digits as numbers.
-/
namespace Sys2Proof.Machine

/-- After consecutive stores from `a`, an existing address `a + k` holds stored byte `k` (20_memory.md R49). -/
theorem Memory.read_writeAll_at (m : Memory) (a : Nat) (bs : List Byte) (k : Nat) (hk : k < bs.length)
    (h : a + k ≤ 4095) : (m.writeAll a bs).read (a + k) = bs[k] := by
  have hin : a ≤ a + k ∧ a + k < a + bs.length ∧ a + k ≤ 4095 := by omega
  rw [Memory.read_writeAll, dif_pos hin]
  simp only [Nat.add_sub_cancel_left]

/-- Consecutive stores leave every address outside their range as it was (20_memory.md R50). -/
theorem Memory.read_writeAll_of_outside (m : Memory) (a : Nat) (bs : List Byte) (b : Nat)
    (h : b < a ∨ a + bs.length ≤ b) : (m.writeAll a bs).read b = m.read b := by
  have hout : ¬ (a ≤ b ∧ b < a + bs.length ∧ b ≤ 4095) := by omega
  rw [Memory.read_writeAll, dif_neg hout]

/-- The digits as numbers: hundreds, tens, units (R144). -/
theorem bcdDigits_toNat (vx : Byte) :
    (bcdDigits vx).map BitVec.toNat = [vx.toNat / 100, vx.toNat / 10 % 10, vx.toNat % 10] := by
  simp only [bcdDigits, List.map_cons, List.map_nil, BitVec.toNat_udiv, BitVec.toNat_umod, BitVec.toNat_ofNat]

/-- A digit stored with three addresses in range stands at its own address (R144). -/
theorem Memory.read_writeAll_bcdDigits (m : Memory) (a : Nat) (vx : Byte) (k : Nat) (hk : k < 3)
    (h : a + 2 ≤ 4095) :
    ((m.writeAll a (bcdDigits vx)).read (a + k)).toNat =
      [vx.toNat / 100, vx.toNat / 10 % 10, vx.toNat % 10][k] := by
  calc ((m.writeAll a (bcdDigits vx)).read (a + k)).toNat
    _ = ((bcdDigits vx)[k]'hk).toNat := congrArg BitVec.toNat (m.read_writeAll_at a (bcdDigits vx) k hk (by omega))
    _ = ((bcdDigits vx).map BitVec.toNat)[k]'hk := (List.getElem_map BitVec.toNat).symm
    _ = _ := by simp only [bcdDigits_toNat]

/-- Settles O10: the address is zero-extended into `I`. -/
theorem loadIndexAddress : Obligations.LoadIndexAddress :=
  fun nnn => ⟨Laws.RoundTrip.ldI nnn rfl, fun s => ⟨_, exec_ldI nnn s, rfl, zextAddr_toNat nnn⟩⟩

/-- Settles O13: the guard passes the three stores exactly where `I + 2` exists, and otherwise reports the lowest
rejected address. -/
theorem decimalDigitsStored : Obligations.DecimalDigitsStored := by
  refine fun x => ⟨Laws.RoundTrip.ldB x rfl, fun s => ⟨fun h => ?_, fun h => ?_⟩⟩
  · have hin : ¬ outOfRange s.base 3 := fun ⟨_, hlast⟩ => absurd hlast (Nat.not_lt.mpr h)
    have hdigit := s.mem.read_writeAll_bcdDigits s.base (s.getV x)
    exact ⟨_, s.guardMem_of_inRange 3 _ hin, rfl, hdigit 0 (by decide) h, hdigit 1 (by decide) h,
      hdigit 2 (by decide) h, fun a ha => s.mem.read_writeAll_of_outside s.base _ a ha⟩
  · have hout : outOfRange s.base 3 := ⟨by decide, h⟩
    exact ⟨_, lowestRejected_toNat s.i, s.guardMem_of_outOfRange 3 _ hout⟩

end Sys2Proof.Machine
end

section
/-!
Display (44_display.md): clearing the screen.
-/
namespace Sys2Proof.Machine

/-- Settles O17: the frame presented is the blank one (R150). -/
theorem clearScreen : Obligations.ClearScreen :=
  ⟨Laws.RoundTrip.cls rfl, fun s => ⟨s.present Frame.blank, exec_cls s, rfl, Frame.get_blank⟩⟩

end Sys2Proof.Machine
end

section
/-!
Timers (45_keypad_timers.md section 3): a whole step by the instruction it is about to execute, and the value a timer
write leaves after the tick of its step.
-/
namespace Sys2Proof.Machine

/-- A step executes the instruction that is next and ends as its execute phase does, with the tick and the log (R81). -/
theorem cycle_of_nextInstr (rnd : Byte) {s u : State} {i : Instr} (hi : s.nextInstr = some i)
    (he : exec i (s.begin rnd).advancePc = .next u) : cycle rnd s = .next u.finish := by
  obtain ⟨w, hw, rfl⟩ := Option.map_eq_some_iff.mp hi
  rw [cycle_of_fetch rnd s w hw]
  exact finishResult_next he

/-- Settles O23: the register is read on the state with `pc` advanced, where it is as before the step, and the tick
follows the write. -/
theorem soundTimerWrite : Obligations.SoundTimerWrite :=
  fun x => ⟨Laws.RoundTrip.ldStVx x rfl, exec_ldStVx x, fun s _ hi =>
    ⟨_, cycle_of_nextInstr _ hi (exec_ldStVx x _), tickDown_toNat (s.getV x)⟩⟩

end Sys2Proof.Machine
end

section
/-!
Exceptions (60_exceptions.md): an instruction either raises the report the table's condition gives it, having written
nothing, or carries its effect out without a report; with the rejected fetch this says what every step reports and what
a reporting step leaves.
-/
namespace Sys2Proof.Machine

/-- An execute phase from `e` keeps to report `r` (R170, R178): NONE, and the phase ends with the report it began with;
or a report other than `FETCH_RANGE`, raised with nothing written. -/
def KeepsToReport (r : Report) (e : State) (result : Result) : Prop :=
  (r = .none ∧ ∃ u, result = .next u ∧ u.report = e.report) ∨
  (r ≠ .none ∧ r.code ≠ 5 ∧ result = .next (e.raise r))

/-- An update that touches no report keeps to NONE. -/
theorem keepsToReport_none {e u : State} (h : u.report = e.report) : KeepsToReport .none e (.next u) :=
  .inl ⟨rfl, u, rfl, h⟩

/-- Raising `r` keeps to `r`; the execute phase raises no `FETCH_RANGE`. -/
theorem keepsToReport_raise (e : State) {r : Report} (hr : r ≠ .none) (hcode : r.code ≠ 5) :
    KeepsToReport r e (.next (e.raise r)) :=
  .inr ⟨hr, hcode, rfl⟩

/-- The information word of `MEM_RANGE` is `max(I, 4096)` (20_memory.md R46). -/
theorem lowestRejected_eq (i : Word) : lowestRejected i = BitVec.ofNat 16 (max i.toNat 4096) := by
  rw [← lowestRejected_toNat, BitVec.ofNat_toNat, BitVec.setWidth_eq]

/-- A guarded memory instruction keeps to the table's `MEM_RANGE` condition. -/
theorem keepsToReport_guardMem (e : State) (count : Nat) {t : State} (h : t.report = e.report) :
    KeepsToReport (memReport e count) e (e.guardMem count t) := by
  have hcond : (0 < count ∧ e.i.toNat + count > 4096) ↔ outOfRange e.base count := by
    simp only [outOfRange, State.base]
    omega
  obtain ⟨hout, heq⟩ | ⟨hin, heq⟩ := e.guardMem_cases count t
  · rw [memReport, if_pos (hcond.mpr hout), heq, lowestRejected_eq]
    exact keepsToReport_raise e nofun nofun
  · rw [memReport, if_neg (mt hcond.mp hin), heq]
    exact keepsToReport_none h

/-- A guarded keypad instruction keeps to the table's `KEY_RANGE` condition. -/
theorem keepsToReport_guardKey (e : State) (vx : Byte) {t : Bool → State} (h : ∀ down, (t down).report = e.report) :
    KeepsToReport (keyReport vx) e (e.guardKey vx t) := by
  obtain ⟨hout, heq⟩ | ⟨hin, heq⟩ := e.guardKey_cases vx t
  · rw [keyReport, if_pos hout, heq]
    exact keepsToReport_raise e nofun nofun
  · rw [keyReport, if_neg (by omega), heq]
    exact keepsToReport_none (h _)

/-- In the execute phase the address of the instruction is where `pc` was before the step (R82, R100). -/
@[simp] theorem State.atExecute_instrAddr (s : State) : s.atExecute.instrAddr = s.pc :=
  BitVec.add_sub_cancel s.pc 2#16

/-- `RET` keeps to the table's `STACK_UNDERFLOW` condition (R101). -/
theorem keepsToReport_ret (s : State) : KeepsToReport (instrReport .ret s) s.atExecute (exec .ret s.atExecute) := by
  rw [exec_ret, State.atExecute_instrAddr, instrReport]
  by_cases hempty : s.sp.val = 0
  · rw [if_pos hempty, dif_pos (show s.atExecute.sp.val = 0 from hempty)]
    exact keepsToReport_raise _ nofun nofun
  · rw [if_neg hempty, dif_neg (show ¬ s.atExecute.sp.val = 0 from hempty)]
    exact keepsToReport_none rfl

/-- `CALL` keeps to the table's `STACK_OVERFLOW` condition (R103). -/
theorem keepsToReport_call (nnn : Addr) (s : State) :
    KeepsToReport (instrReport (.call nnn) s) s.atExecute (exec (.call nnn) s.atExecute) := by
  rw [exec_call, State.atExecute_instrAddr, instrReport]
  by_cases hfull : s.sp.val = 16
  · have hnone : ¬ s.atExecute.sp.val < 16 := by rw [State.atExecute_sp]; omega
    rw [if_pos hfull, dif_neg hnone]
    exact keepsToReport_raise _ nofun nofun
  · have hroom : s.atExecute.sp.val < 16 := by rw [State.atExecute_sp]; omega
    rw [if_neg hfull, dif_pos hroom]
    exact keepsToReport_none rfl

/-- Every instruction keeps to the report the table gives it (R170). -/
theorem exec_keepsToReport (i : Instr) (s : State) :
    KeepsToReport (instrReport i s) s.atExecute (exec i s.atExecute) := by
  cases i with
  | ret => exact keepsToReport_ret s
  | call nnn => exact keepsToReport_call nnn s
  | drw _ _ n => exact keepsToReport_guardMem s.atExecute n.toNat rfl
  | ldB => exact keepsToReport_guardMem s.atExecute 3 rfl
  | storeRegs x | loadRegs x => exact keepsToReport_guardMem s.atExecute (regCount x) rfl
  | skp x | sknp x => exact keepsToReport_guardKey s.atExecute (s.getV x) fun _ => State.skipIf_report _ _
  | sys | ldVxK | unknown => exact keepsToReport_raise _ nofun nofun
  | seImm | sneImm | seReg | sneReg => exact keepsToReport_none (State.skipIf_report _ _)
  | cls | jp | ldImm | addImm | ldReg | orReg | andReg | xorReg | addReg | subReg | shr | subnReg | shl | ldI | jpV0
  | rnd | ldVxDt | ldDtVx | ldStVx | addI | ldF => exact keepsToReport_none rfl

/-- A step whose fetch is rejected reports `FETCH_RANGE` (R82, R176). -/
theorem stepReport_of_rejected {s : State} (h : s.fetch = none) : stepReport s = .fetchRange s.pc := by
  rw [stepReport, State.nextInstr, h, Option.map_none]

/-- A step that fetches reports what its instruction does (R170). -/
theorem stepReport_of_fetch {s : State} {w : Word} (h : s.fetch = some w) :
    stepReport s = instrReport (decodeWord w) s := by
  rw [stepReport, State.nextInstr, h, Option.map_some]

/-- What a step reports, by how it ends: a rejected fetch only raises; an execute phase without a report ends with none;
a reporting one only raises. -/
theorem step_report_cases {s t : State} (h : step s = .next t) :
    (stepReport s = .fetchRange s.pc ∧
      t = ((s.countDraw.begin (Config.rnd s.draws)).raise (.fetchRange s.pc)).finish) ∨
    (stepReport s = .none ∧ t.report = .none) ∨
    (stepReport s ≠ .none ∧ (stepReport s).code ≠ 5 ∧ t = (s.atExecute.raise (stepReport s)).finish) := by
  obtain ⟨hf, rfl⟩ | ⟨w, u, hf, he, rfl⟩ := step_cases h
  · exact .inl ⟨stepReport_of_rejected hf, rfl⟩
  · rw [stepReport_of_fetch hf]
    have hk := exec_keepsToReport (decodeWord w) s
    rw [he] at hk
    obtain ⟨hr, v, ⟨⟩, hv⟩ | ⟨hr, hcode, ⟨⟩⟩ := hk
    · exact .inr (.inl ⟨hr, hv⟩)
    · exact .inr (.inr ⟨hr, hcode, rfl⟩)

/-- A report's `ESR` bit is the one its code names (R24). -/
theorem Report.esrBit_eq_shiftLeft {r : Report} (h : r ≠ .none) : r.esrBit = 1#6 <<< (r.code - 1) := by
  cases r with
  | none => exact absurd rfl h
  | unknownOpcode | stackOverflow | stackUnderflow | memRange | fetchRange | keyRange => rfl

/-- A step that ends right after a raise: the tick, the `ESR` bit and the report, nothing else (R81, R173). -/
theorem State.finish_raise (e : State) {r : Report} (h : r ≠ .none) :
    (e.raise r).finish = { e with
      dt := tickDown e.dt, st := tickDown e.st, esr := e.esr ||| (1#6 <<< (r.code - 1)), report := r } := by
  rw [← Report.esrBit_eq_shiftLeft h]
  rfl

/-- Settles O43: the condition of the table decides each instruction's raise, and the fetch's. -/
theorem stepReportsTableConditions : Obligations.StepReportsTableConditions := by
  refine ⟨fun s t h => ?_, fun _ _ _ => ⟨rfl, rfl, rfl, rfl, rfl, rfl, rfl⟩⟩
  obtain ⟨hr, rfl⟩ | ⟨hr, ht⟩ | ⟨_, _, rfl⟩ := step_report_cases h
  · exact hr.symm
  · exact ht.trans hr.symm
  · rfl

/-- Settles O42: a report is raised with nothing written, so the step adds to it only the advance (where a word was
fetched), the tick and the log. -/
theorem reportsArePrecise : Obligations.ReportsArePrecise := by
  intro s t h hreport
  obtain ⟨_, rfl⟩ | ⟨_, hnone⟩ | ⟨hr, hcode, rfl⟩ := step_report_cases h
  · exact State.finish_raise _ hreport
  · exact absurd hnone hreport
  · rw [State.finish_report, State.raise_report, if_neg hcode]
    exact State.finish_raise _ hr

end Sys2Proof.Machine
end

section
/-!
Reset (70_reset_and_hazards.md): a byte above the font has the value it has with no memory written, so no program
outlives `initialize`.
-/
namespace Sys2Proof.Machine

/-- No byte from 80 on is part of the font: `initialize` leaves it 0 (R200, R202). -/
theorem State.initializeBlock_read_of_le (font : Font) (s : State) {a : Nat} (ha : 80 ≤ a) :
    (s.initializeBlock font).mem.read a = 0#8 := by
  have houtside : a < 0 ∨ 0 + font.toList.length ≤ a := by
    rw [Vector.length_toList]
    omega
  calc (s.initializeBlock font).mem.read a
    _ = Memory.read [] a := Memory.read_writeAll_of_outside [] 0 font.toList a houtside
    _ = 0#8 := dif_neg ha.not_gt

/-- Settles O49: `initialize` keeps nothing of the state it is called in but the counter of the random source. -/
theorem initializeTwiceIsOnce : Obligations.InitializeTwiceIsOnce :=
  fun font s _ => ⟨rfl, rfl, fun _ ha => s.initializeBlock_read_of_le font ha⟩

end Sys2Proof.Machine
end

section
/-!
Encoding (30_encoding.md): decoding and encoding are inverse to each other, and the decoder is the opcode table. Both
claims about every word follow the decoder's dispatch, one lemma per sub-decoder.
-/
namespace Sys2Proof

/-! ## The decoder undoes the encoder -/

/-- Every instruction's word decodes to it, where it is well formed (R65, R66). -/
theorem decodeWord_encode : ∀ i : Instr, Laws.RoundTrip.Statement i
  | .cls => Laws.RoundTrip.cls
  | .ret => Laws.RoundTrip.ret
  | .jp nnn => Laws.RoundTrip.jp nnn
  | .call nnn => Laws.RoundTrip.call nnn
  | .seImm x nn => Laws.RoundTrip.seImm x nn
  | .sneImm x nn => Laws.RoundTrip.sneImm x nn
  | .seReg x y => Laws.RoundTrip.seReg x y
  | .ldImm x nn => Laws.RoundTrip.ldImm x nn
  | .addImm x nn => Laws.RoundTrip.addImm x nn
  | .ldReg x y => Laws.RoundTrip.ldReg x y
  | .orReg x y => Laws.RoundTrip.orReg x y
  | .andReg x y => Laws.RoundTrip.andReg x y
  | .xorReg x y => Laws.RoundTrip.xorReg x y
  | .addReg x y => Laws.RoundTrip.addReg x y
  | .subReg x y => Laws.RoundTrip.subReg x y
  | .shr x y => Laws.RoundTrip.shr x y
  | .subnReg x y => Laws.RoundTrip.subnReg x y
  | .shl x y => Laws.RoundTrip.shl x y
  | .sneReg x y => Laws.RoundTrip.sneReg x y
  | .ldI nnn => Laws.RoundTrip.ldI nnn
  | .jpV0 nnn => Laws.RoundTrip.jpV0 nnn
  | .rnd x nn => Laws.RoundTrip.rnd x nn
  | .drw x y n => Laws.RoundTrip.drw x y n
  | .skp x => Laws.RoundTrip.skp x
  | .sknp x => Laws.RoundTrip.sknp x
  | .ldVxDt x => Laws.RoundTrip.ldVxDt x
  | .ldDtVx x => Laws.RoundTrip.ldDtVx x
  | .ldStVx x => Laws.RoundTrip.ldStVx x
  | .addI x => Laws.RoundTrip.addI x
  | .ldF x => Laws.RoundTrip.ldF x
  | .ldB x => Laws.RoundTrip.ldB x
  | .storeRegs x => Laws.RoundTrip.storeRegs x
  | .loadRegs x => Laws.RoundTrip.loadRegs x
  | .sys nnn => Laws.RoundTrip.sys nnn
  | .ldVxK x => Laws.RoundTrip.ldVxK x
  | .unknown w => Laws.RoundTrip.unknown w

/-- Settles O52: the two bytes join to the word, and the decoder undoes the encoder on it. -/
theorem decodeUndoesEncode : Obligations.DecodeUndoesEncode := by
  intro i rest h
  calc decode (encodeBytes i ++ rest)
    _ = .ok (decodeWord (joinBytes ((encode i).extractLsb' 8 8) ((encode i).extractLsb' 0 8)), rest) := rfl
    _ = .ok (i, rest) := by rw [joinBytes_wordBytes, decodeWord_encode i h]

/-! ## The encoder undoes the decoder -/

/-- A word put together again from its nibbles, the family and the sub-selector known (R62). -/
theorem nibbles_eq_word {w : Word} {f n : Nibble} (hf : fieldF w = f) (hn : fieldN w = n) :
    f ++ fieldX w ++ fieldY w ++ n = w := by
  subst hf hn
  exact word_of_nibbles w

/-- A word put together again from two nibbles and its low byte, the family known (R62). -/
theorem byte_eq_word {w : Word} {f : Nibble} {nn : Byte} (hf : fieldF w = f) (hnn : fieldNN w = nn) :
    f ++ fieldX w ++ nn = w := by
  subst hf hnn
  exact word_of_byte w

/-- A word put together again from its family and its low twelve bits (R62). -/
theorem addr_eq_word {w : Word} {f : Nibble} {nnn : Addr} (hf : fieldF w = f) (hnnn : fieldNNN w = nnn) :
    f ++ nnn = w := by
  subst hf hnnn
  exact word_of_addr w

/-- `i` is well formed and `w` is its word: what the decoder owes for `w` (R65, R72). -/
def Restores (i : Instr) (w : Word) : Prop := WellFormed i = true ∧ encode i = w

/-- The unmatched words by the named fields (R69). -/
theorem unmatchedWord_eq (w : Word) : unmatchedWord w =
    if fieldF w = 0x5#4 then fieldN w != 0x0#4
    else if fieldF w = 0x8#4 then 0x7#4 < fieldN w && fieldN w != 0xE#4
    else if fieldF w = 0x9#4 then fieldN w != 0x0#4
    else if fieldF w = 0xE#4 then fieldNN w != 0x9E#8 && fieldNN w != 0xA1#8
    else if fieldF w = 0xF#4 then fieldNN w != 0x0A#8 && !definedFSelector (fieldNN w)
    else false := rfl

/-- Family 0, the two defined words and SYS (R67, R71). -/
theorem decodeFamily0_restores {w : Word} (hf : fieldF w = 0x0#4) : Restores (decodeFamily0 (fieldNNN w)) w := by
  unfold decodeFamily0
  split_ifs with hcls hret
  · exact ⟨rfl, addr_eq_word hf hcls⟩
  · exact ⟨rfl, addr_eq_word hf hret⟩
  · exact ⟨by simp [WellFormed, hcls, hret], addr_eq_word hf rfl⟩

/-- Families 5 and 9, whose one sub-selector is 0 (R67, R69). -/
theorem decodeSelector0_restores {w : Word} {i : Instr} (hf : fieldF w = 0x5#4 ∨ fieldF w = 0x9#4)
    (hi : fieldN w = 0x0#4 → Restores i w) : Restores (if fieldN w = 0x0#4 then i else .unknown w) w := by
  split_ifs with hn
  · exact hi hn
  · refine ⟨?_, rfl⟩
    rcases hf with hf | hf <;> simp [WellFormed, unmatchedWord_eq, hf, hn]

/-- Family 8: a sub-selector that is none of the nine is above 7 and not E (R67, R69). -/
theorem decodeAlu_restores {w : Word} (hf : fieldF w = 0x8#4) :
    Restores (decodeAlu w (fieldX w) (fieldY w) (fieldN w)) w := by
  unfold decodeAlu
  split_ifs with h0 h1 h2 h3 h4 h5 h6 h7 hE
  case neg =>
    refine ⟨?_, rfl⟩
    have hlt : 0x7#4 < fieldN w := by bv_omega
    simp [WellFormed, unmatchedWord_eq, hf, hlt, hE]
  all_goals exact ⟨rfl, nibbles_eq_word hf ‹_›⟩

/-- Family E (R67, R69). -/
theorem decodeKeys_restores {w : Word} (hf : fieldF w = 0xE#4) :
    Restores (decodeKeys w (fieldX w) (fieldNN w)) w := by
  unfold decodeKeys
  split_ifs with hskp hsknp
  · exact ⟨rfl, byte_eq_word hf hskp⟩
  · exact ⟨rfl, byte_eq_word hf hsknp⟩
  · exact ⟨by simp [WellFormed, unmatchedWord_eq, hf, hskp, hsknp], rfl⟩

/-- Family F, `FX0A` among its words (R67, R69, R70). -/
theorem decodeMisc_restores {w : Word} (hf : fieldF w = 0xF#4) :
    Restores (decodeMisc w (fieldX w) (fieldNN w)) w := by
  unfold decodeMisc
  split_ifs
  case neg => exact ⟨by simp [WellFormed, unmatchedWord_eq, definedFSelector, *], rfl⟩
  all_goals exact ⟨rfl, byte_eq_word hf ‹_›⟩

/-- Settles O53: each branch of the dispatch keeps every bit of the word, its fixed bits as the row's and its fields as
operands. -/
theorem encodeUndoesDecode : Obligations.EncodeUndoesDecode := by
  intro w
  show Restores (decodeWord w) w
  unfold decodeWord
  split <;> rename_i hf
  case h_1 => exact decodeFamily0_restores hf
  case h_6 => exact decodeSelector0_restores (.inl hf) fun hn => ⟨rfl, nibbles_eq_word hf hn⟩
  case h_9 => exact decodeAlu_restores hf
  case h_10 => exact decodeSelector0_restores (.inr hf) fun hn => ⟨rfl, nibbles_eq_word hf hn⟩
  case h_14 => exact ⟨rfl, nibbles_eq_word hf rfl⟩
  case h_15 => exact decodeKeys_restores hf
  case h_16 =>
    have hF : fieldF w = 0xF#4 := by
      generalize fieldF w = f at *
      revert f; decide
    exact decodeMisc_restores hF
  case h_2 | h_3 | h_11 | h_12 => exact ⟨rfl, addr_eq_word hf rfl⟩
  case h_4 | h_5 | h_7 | h_8 | h_13 => exact ⟨rfl, byte_eq_word hf rfl⟩

/-! ## The rows of the opcode table -/

/-- Two rows that match one word agree wherever both masks look (R65). -/
theorem rows_agree_of_isMatch {p q : TableRow} {w : Word} (hp : p.isMatch w = true) (hq : q.isMatch w = true) :
    p.pattern &&& q.mask = q.pattern &&& p.mask := by
  have hp : w &&& p.mask = p.pattern := beq_iff_eq.mp hp
  have hq : w &&& q.mask = q.pattern := beq_iff_eq.mp hq
  rw [← hp, ← hq, BitVec.and_assoc, BitVec.and_assoc, BitVec.and_comm p.mask]

/-- Any two defined rows differ in some bit that both masks look at. -/
theorem definedRows_conflict :
    definedRows.Pairwise (fun p q => p.pattern &&& q.mask ≠ q.pattern &&& p.mask) := by decide

/-- Settles O55: a word matched by two rows would make them agree where they conflict. -/
theorem definedRowsAreDisjoint : Obligations.DefinedRowsAreDisjoint :=
  ⟨rfl, definedRows_conflict.imp fun hne _ ⟨hp, hq⟩ => hne (rows_agree_of_isMatch hp hq)⟩

/-- Settles O56, by evaluating the decoder on the fourteen words. -/
theorem decodeSampleWords : Obligations.DecodeSampleWords := by
  unfold Obligations.DecodeSampleWords
  decide

/-! ## The decoder is the opcode table -/

/-- The low byte is the two low nibbles (R62). -/
theorem fieldNN_eq (w : Word) : fieldNN w = fieldY w ++ fieldN w := (extract_glue w 0 4 4).symm

/-- The mnemonic of the first of `rows` that matches (R66). -/
def firstMnemonic (rows : List TableRow) (w : Word) : Option String :=
  (rows.find? (·.isMatch w)).map (·.mnemonic)

/-- The rows a word of family `f` can match, in file order. -/
def familyOf (f : Nibble) : List TableRow := opcodeTable.filter fun r => f &&& fieldF r.mask == fieldF r.pattern

/-- Only the rows of the word's family compete for it. -/
theorem tableMnemonic_eq (w : Word) : tableMnemonic w = firstMnemonic (familyOf (fieldF w)) w := by
  rw [firstMnemonic, familyOf, List.find?_filter]
  refine congrArg (Option.map _) (congrArg (fun p => opcodeTable.find? p) (funext fun r => ?_))
  rw [Bool.eq_iff_iff, decide_eq_true_iff, beq_iff_eq]
  exact ⟨fun h => ⟨((r.isMatch_iff w).mp h).1, h⟩, And.right⟩

/-- The first row is tested before the others (R66). -/
theorem firstMnemonic_cons (r : TableRow) (rows : List TableRow) (w : Word) :
    firstMnemonic (r :: rows) w = if r.isMatch w then some r.mnemonic else firstMnemonic rows w := by
  unfold firstMnemonic
  rw [List.find?_cons]
  cases r.isMatch w <;> rfl

/-- A mask nibble of all ones looks at every bit. -/
theorem nibble_and_F (n : Nibble) : n &&& 0xF#4 = n := BitVec.and_allOnes

/-- The last row of the table matches every word (R66). -/
theorem firstMnemonic_cons_any {name : String} (rows : List TableRow) (w : Word) :
    firstMnemonic (⟨name, 0x0000, 0x0000⟩ :: rows) w = some name := by
  rw [firstMnemonic_cons]
  exact if_pos (beq_iff_eq.mpr BitVec.and_zero)

/-- A row selected by the family alone matches the whole family (R67). -/
theorem firstMnemonic_cons_family {name : String} {p : Word} (rows : List TableRow) {w : Word}
    (hp : fieldNNN p = 0x000#12) (hf : fieldF w = fieldF p) :
    firstMnemonic (⟨name, 0xF000, p⟩ :: rows) w = some name := by
  have hmatch : w &&& 0xF000#16 = p :=
    calc w &&& 0xF000#16
      _ = (fieldF w ++ fieldNNN w) &&& (0xF#4 ++ 0x000#12) := by rw [word_of_addr]; rfl
      _ = fieldF p ++ fieldNNN p := by rw [BitVec.and_append, nibble_and_F, BitVec.and_zero, hf, hp]
      _ = p := word_of_addr p
  rw [firstMnemonic_cons]
  exact if_pos (beq_iff_eq.mpr hmatch)

/-- A row selected by the sub-selector `N`, tested on a word of its family (R67). -/
theorem firstMnemonic_cons_selectN {name : String} {p : Word} (rows : List TableRow) {w : Word}
    (hp : fieldX p = 0x0#4 ∧ fieldY p = 0x0#4) (hf : fieldF w = fieldF p) :
    firstMnemonic (⟨name, 0xF00F, p⟩ :: rows) w =
      if fieldN w = fieldN p then some name else firstMnemonic rows w := by
  have hmask : fieldF 0xF00F = 0xF#4 ∧ fieldX 0xF00F = 0x0#4 ∧ fieldY 0xF00F = 0x0#4 ∧ fieldN 0xF00F = 0xF#4 := by
    decide
  rw [firstMnemonic_cons]
  refine if_congr ?_ rfl rfl
  simp only [TableRow.isMatch_iff, hmask, nibble_and_F, BitVec.and_zero, hp, hf, true_and]

/-- A row selected by the sub-selector `NN`, tested on a word of its family (R67). -/
theorem firstMnemonic_cons_selectNN {name : String} {p : Word} (rows : List TableRow) {w : Word}
    (hp : fieldX p = 0x0#4) (hf : fieldF w = fieldF p) :
    firstMnemonic (⟨name, 0xF0FF, p⟩ :: rows) w =
      if fieldNN w = fieldNN p then some name else firstMnemonic rows w := by
  have hmask : fieldF 0xF0FF = 0xF#4 ∧ fieldX 0xF0FF = 0x0#4 ∧ fieldY 0xF0FF = 0xF#4 ∧ fieldN 0xF0FF = 0xF#4 := by
    decide
  have hbyte : fieldNN w = fieldNN p ↔ fieldY w = fieldY p ∧ fieldN w = fieldN p := by
    rw [fieldNN_eq, fieldNN_eq]
    exact append_inj _ _ _ _
  rw [firstMnemonic_cons]
  refine if_congr ?_ rfl rfl
  simp only [TableRow.isMatch_iff, hmask, nibble_and_F, BitVec.and_zero, hp, hf, true_and, hbyte]

/-- A row selected by all 16 bits, tested on a word of its family (R67). -/
theorem firstMnemonic_cons_selectNNN {name : String} {p : Word} (rows : List TableRow) {w : Word}
    (hf : fieldF w = fieldF p) :
    firstMnemonic (⟨name, 0xFFFF, p⟩ :: rows) w =
      if fieldNNN w = fieldNNN p then some name else firstMnemonic rows w := by
  have hall : w &&& 0xFFFF#16 = w := BitVec.and_allOnes
  have hmatch : w &&& 0xFFFF#16 = p ↔ fieldNNN w = fieldNNN p := by
    rw [hall, ← word_of_addr w, ← word_of_addr p, append_inj, fieldNNN_addr, fieldNNN_addr]
    exact and_iff_right hf
  rw [firstMnemonic_cons]
  exact if_congr (beq_iff_eq.trans hmatch) rfl rfl

/-- Family 0: `CLS`, `RET`, and `SYS` for the rest (R67, R71). -/
theorem decodeFamily0_mnemonic {w : Word} (hf : fieldF w = 0x0#4) :
    tableMnemonic w = some (decodeFamily0 (fieldNNN w)).mnemonic := by
  have hrows : familyOf 0x0#4 =
      [⟨"CLS", 0xFFFF, 0x00E0⟩, ⟨"RET", 0xFFFF, 0x00EE⟩, ⟨"SYS", 0xF000, 0x0000⟩, ⟨"UNKNOWN", 0x0000, 0x0000⟩] := by
    decide
  rw [tableMnemonic_eq, hf, hrows]
  iterate 2 rw [firstMnemonic_cons_selectNNN _ hf]
  rw [firstMnemonic_cons_family _ rfl hf]
  simp only [decodeFamily0, apply_ite Instr.mnemonic, apply_ite some]
  rfl

/-- Family 8: its nine rows are tested in the order the decoder tests `N` (R67). -/
theorem decodeAlu_mnemonic {w : Word} (hf : fieldF w = 0x8#4) :
    tableMnemonic w = some (decodeAlu w (fieldX w) (fieldY w) (fieldN w)).mnemonic := by
  have hrows : familyOf 0x8#4 = aluRows.dropLast ++ [⟨"UNKNOWN", 0x0000, 0x0000⟩] := by decide
  rw [tableMnemonic_eq, hf, hrows, aluRows]
  simp only [List.dropLast, List.cons_append, List.nil_append]
  iterate 9 rw [firstMnemonic_cons_selectN _ ⟨rfl, rfl⟩ hf]
  rw [firstMnemonic_cons_any]
  simp only [decodeAlu, apply_ite Instr.mnemonic, apply_ite some]
  rfl

/-- Families 5 and 9: the one row and the last row of the table (R67, R69). -/
theorem decodeSelector0_mnemonic {name : String} (p : Word) {w : Word} {i : Instr}
    (hrows : familyOf (fieldF w) = [⟨name, 0xF00F, p⟩, ⟨"UNKNOWN", 0x0000, 0x0000⟩])
    (hp : fieldX p = 0x0#4 ∧ fieldY p = 0x0#4 ∧ fieldN p = 0x0#4) (hf : fieldF w = fieldF p)
    (hi : i.mnemonic = name) : tableMnemonic w = some (if fieldN w = 0x0#4 then i else .unknown w).mnemonic := by
  obtain ⟨hx, hy, hn⟩ := hp
  rw [tableMnemonic_eq, hrows, firstMnemonic_cons_selectN _ ⟨hx, hy⟩ hf, firstMnemonic_cons_any, hn, ← hi]
  simp only [apply_ite Instr.mnemonic, apply_ite some]
  rfl

/-- Family E: its two rows are tested in the order the decoder tests `NN` (R67). -/
theorem decodeKeys_mnemonic {w : Word} (hf : fieldF w = 0xE#4) :
    tableMnemonic w = some (decodeKeys w (fieldX w) (fieldNN w)).mnemonic := by
  have hrows : familyOf 0xE#4 =
      [⟨"SKP_Vx", 0xF0FF, 0xE09E⟩, ⟨"SKNP_Vx", 0xF0FF, 0xE0A1⟩, ⟨"UNKNOWN", 0x0000, 0x0000⟩] := by decide
  rw [tableMnemonic_eq, hf, hrows]
  iterate 2 rw [firstMnemonic_cons_selectNN _ rfl hf]
  rw [firstMnemonic_cons_any]
  simp only [decodeKeys, apply_ite Instr.mnemonic, apply_ite some]
  rfl

/-- Family F: its eight rows and `LD Vx,K` are tested in the order the decoder tests `NN` (R67, R70). -/
theorem decodeMisc_mnemonic {w : Word} (hf : fieldF w = 0xF#4) :
    tableMnemonic w = some (decodeMisc w (fieldX w) (fieldNN w)).mnemonic := by
  have hrows : familyOf 0xF#4 = upperRows.drop 6 ++ reservedRows.tail := by decide
  rw [tableMnemonic_eq, hf, hrows, upperRows, reservedRows]
  simp only [List.drop, List.tail, List.cons_append, List.nil_append]
  iterate 9 rw [firstMnemonic_cons_selectNN _ rfl hf]
  rw [firstMnemonic_cons_any]
  simp only [decodeMisc, apply_ite Instr.mnemonic, apply_ite some]
  rfl

/-- A family with one row has its mnemonic on every word (R67). -/
theorem tableMnemonic_of_head {name : String} (p : Word) {w : Word}
    (hhead : (familyOf (fieldF p)).head? = some ⟨name, 0xF000, p⟩) (hp : fieldNNN p = 0x000#12)
    (hf : fieldF w = fieldF p) : tableMnemonic w = some name := by
  obtain ⟨rows, hrows⟩ := List.head?_eq_some_iff.mp hhead
  rw [tableMnemonic_eq, hf, hrows]
  exact firstMnemonic_cons_family rows hp hf

/-- Settles O54: family by family, the rows that can match are tested in the order of the decoder's own tests. -/
theorem decoderMeetsOpcodeTable : Obligations.DecoderMeetsOpcodeTable := by
  intro w
  unfold decodeWord
  split <;> rename_i hf
  case h_1 => exact decodeFamily0_mnemonic hf
  case h_2 => exact tableMnemonic_of_head 0x1000 rfl rfl hf
  case h_3 => exact tableMnemonic_of_head 0x2000 rfl rfl hf
  case h_4 => exact tableMnemonic_of_head 0x3000 rfl rfl hf
  case h_5 => exact tableMnemonic_of_head 0x4000 rfl rfl hf
  case h_6 => exact decodeSelector0_mnemonic 0x5000 (by rw [hf]; rfl) ⟨rfl, rfl, rfl⟩ hf rfl
  case h_7 => exact tableMnemonic_of_head 0x6000 rfl rfl hf
  case h_8 => exact tableMnemonic_of_head 0x7000 rfl rfl hf
  case h_9 => exact decodeAlu_mnemonic hf
  case h_10 => exact decodeSelector0_mnemonic 0x9000 (by rw [hf]; rfl) ⟨rfl, rfl, rfl⟩ hf rfl
  case h_11 => exact tableMnemonic_of_head 0xA000 rfl rfl hf
  case h_12 => exact tableMnemonic_of_head 0xB000 rfl rfl hf
  case h_13 => exact tableMnemonic_of_head 0xC000 rfl rfl hf
  case h_14 => exact tableMnemonic_of_head 0xD000 rfl rfl hf
  case h_15 => exact decodeKeys_mnemonic hf
  case h_16 =>
    have hF : fieldF w = 0xF#4 := by
      generalize fieldF w = f at *
      revert f; decide
    exact decodeMisc_mnemonic hF

end Sys2Proof
end

section
/-!
What an instruction can do (10_state.md, "Summary of all state"): every instruction answers a next state, and its effect
on the state beside registers and report is that of its use. The frame of every instruction follows from the effect.
-/
namespace Sys2Proof.Machine

/-- The answer is a next state, and the state meets `P`. -/
def Answers (P : State → Prop) (result : Result) : Prop := ∃ t, result = .next t ∧ P t

/-- The next state answered is the one that meets `P`. -/
theorem Answers.of_next {P : State → Prop} {result : Result} {t : State} (h : Answers P result)
    (ht : result = .next t) : P t := by
  obtain ⟨u, rfl, hu⟩ := h
  cases ht
  exact hu

/-- A guarded memory instruction answers what its raise and its effect both meet (20_memory.md R46). -/
theorem answers_guardMem (P : State → Prop) {s t : State} {count : Nat} (hraise : ∀ r, P (s.raise r)) (ht : P t) :
    Answers P (s.guardMem count t) := by
  obtain ⟨_, heq⟩ | ⟨_, heq⟩ := s.guardMem_cases count t
  · exact ⟨_, heq, hraise _⟩
  · exact ⟨_, heq, ht⟩

/-- A guarded keypad instruction answers what its raise and its effect both meet (45_keypad_timers.md R161, R162). -/
theorem answers_guardKey (P : State → Prop) {s : State} {vx : Byte} {t : Bool → State}
    (hraise : ∀ r, P (s.raise r)) (ht : ∀ down, P (t down)) : Answers P (s.guardKey vx t) := by
  obtain ⟨_, heq⟩ | ⟨_, heq⟩ := s.guardKey_cases vx t
  · exact ⟨_, heq, hraise _⟩
  · exact ⟨_, heq, ht _⟩

/-- What an instruction of each use can make of `s` (10_state.md, "Summary of all state"): the fields its use names, and
the report where the instruction can raise one. -/
def StateUse.Effect (use : StateUse) (s t : State) : Prop :=
  match use with
  | .registers => ∃ v r, t = { s with v := v, report := r }
  | .index => ∃ i, t = { s with i := i }
  | .pcOnly => ∃ pc r, t = { s with pc := pc, report := r }
  | .call => ∃ pc stack sp r, t = { s with pc := pc, stack := stack, sp := sp, report := r } ∧
      ∀ k : Fin 16, stack[k] = s.stack[k] ∨ stack[k] = s.pc
  | .ret => ∃ pc sp r, t = { s with pc := pc, sp := sp, report := r }
  | .screen => ∃ v fb df r, t = { s with v := v, fb := fb, df := df, report := r }
  | .memory => ∃ a bs r, t = { s with mem := s.mem.writeAll a bs, report := r }
  | .delay => ∃ b, t = { s with dt := b }
  | .sound => ∃ b, t = { s with st := b }
  | .nothing => ∃ r, t = { s with report := r }

/-- A skip changes `pc` alone (41_flow.md section 3). -/
theorem effect_skipIf (s : State) (c : Bool) : StateUse.pcOnly.Effect s (s.skipIf c) := ⟨_, _, s.skipIf_eq c⟩

/-- `RET` pops or raises (41_flow.md R101). -/
theorem exec_ret_effect (s : State) : Answers (StateUse.ret.Effect s) (exec .ret s) := by
  refine ⟨_, exec_ret s, ?_⟩
  split
  · exact ⟨_, _, _, rfl⟩
  · exact ⟨_, _, _, rfl⟩

/-- `CALL` pushes `pc` or raises (41_flow.md R103). -/
theorem exec_call_effect (nnn : Addr) (s : State) : Answers (StateUse.call.Effect s) (exec (.call nnn) s) := by
  refine ⟨_, exec_call nnn s, ?_⟩
  split
  case isTrue hroom =>
    refine ⟨_, _, _, _, rfl, fun k => ?_⟩
    by_cases hk : s.sp.val = k.val
    · exact .inr (by simp [hk])
    · exact .inl (by simp [hk])
  case isFalse => exact ⟨_, _, _, _, rfl, fun _ => .inl rfl⟩

/-- Every instruction answers a next state and has the effect of its use (10_state.md, "Summary of all state"). -/
theorem exec_effect (i : Instr) (s : State) : Answers ((stateUse i).Effect s) (exec i s) := by
  cases i with
  | ret => exact exec_ret_effect s
  | call nnn => exact exec_call_effect nnn s
  | seImm | sneImm | seReg | sneReg => exact ⟨_, rfl, effect_skipIf s _⟩
  | skp | sknp => exact answers_guardKey (StateUse.pcOnly.Effect s) (fun _ => ⟨_, _, rfl⟩) fun _ => effect_skipIf s _
  | drw => exact answers_guardMem _ (fun _ => ⟨_, _, _, _, rfl⟩) ⟨_, _, _, _, rfl⟩
  | loadRegs => exact answers_guardMem _ (fun _ => ⟨_, _, rfl⟩) ⟨_, _, rfl⟩
  | ldB | storeRegs => exact answers_guardMem _ (fun r => ⟨0, [], r, rfl⟩) ⟨_, _, _, rfl⟩
  | cls => exact ⟨_, rfl, _, _, _, _, rfl⟩
  | jp | jpV0 => exact ⟨_, rfl, _, _, rfl⟩
  | ldImm | addImm | ldReg | orReg | andReg | xorReg | addReg | subReg | shr | subnReg | shl | rnd | ldVxDt =>
    exact ⟨_, rfl, _, _, rfl⟩
  | ldI | addI | ldF | ldDtVx | ldStVx | sys | ldVxK | unknown => exact ⟨_, rfl, _, rfl⟩

/-- The frame of an instruction by its use: each field but the report, under the uses that keep it. -/
structure StateUse.Frame (use : StateUse) (s t : State) : Prop where
  v : use ≠ .registers → use ≠ .screen → t.v = s.v
  i : use ≠ .index → t.i = s.i
  pc : use ≠ .pcOnly → use ≠ .call → use ≠ .ret → t.pc = s.pc
  stack : use ≠ .call → t.stack = s.stack
  sp : use ≠ .call → use ≠ .ret → t.sp = s.sp
  dt : use ≠ .delay → t.dt = s.dt
  st : use ≠ .sound → t.st = s.st
  screen : use ≠ .screen → t.fb = s.fb ∧ t.df = s.df
  mem : use ≠ .memory → t.mem = s.mem
  key : t.key = s.key
  esr : t.esr = s.esr
  rnd : t.rnd = s.rnd
  draws : t.draws = s.draws

/-- The fields a use does not name are kept. -/
theorem StateUse.Effect.frame {use : StateUse} {s t : State} (h : use.Effect s t) : use.Frame s t := by
  cases use with
  | registers => obtain ⟨_, _, rfl⟩ := h; constructor <;> simp
  | index => obtain ⟨_, rfl⟩ := h; constructor <;> simp
  | pcOnly => obtain ⟨_, _, rfl⟩ := h; constructor <;> simp
  | call => obtain ⟨_, _, _, _, rfl, _⟩ := h; constructor <;> simp
  | ret => obtain ⟨_, _, _, rfl⟩ := h; constructor <;> simp
  | screen => obtain ⟨_, _, _, _, rfl⟩ := h; constructor <;> simp
  | memory => obtain ⟨_, _, _, rfl⟩ := h; constructor <;> simp
  | delay => obtain ⟨_, rfl⟩ := h; constructor <;> simp
  | sound => obtain ⟨_, rfl⟩ := h; constructor <;> simp
  | nothing => obtain ⟨_, rfl⟩ := h; constructor <;> simp

/-- The frame of every instruction. -/
theorem exec_frame {i : Instr} {s t : State} (h : exec i s = .next t) : (stateUse i).Frame s t :=
  ((exec_effect i s).of_next h).frame

/-- Settles O38: the frame, field by field. -/
theorem stateUseTable : Obligations.StateUseTable := by
  intro i s t h
  have hf := exec_frame h
  exact ⟨hf.i, hf.pc, hf.stack, hf.sp, hf.dt, hf.st, hf.screen, hf.mem, hf.key, hf.esr, hf.rnd, hf.draws⟩

/-- A step with any random byte answers a next state (60_exceptions.md R171). -/
theorem cycle_answers (r : Byte) (s : State) : ∃ t, cycle r s = .next t := by
  cases hf : s.fetch with
  | none => exact ⟨_, cycle_of_rejected r s hf⟩
  | some w =>
    obtain ⟨u, hu, _⟩ := exec_effect (decodeWord w) (s.begin r).advancePc
    exact ⟨u.finish, (cycle_of_fetch r s w hf).trans (finishResult_next hu)⟩

/-- Settles O35: every instruction answers its effect, and the step ends it. -/
theorem everyStepAnswersNextState : Obligations.EveryStepAnswersNextState :=
  ⟨fun i s => (exec_effect i s).imp fun _ => And.left, cycle_answers, fun s => cycle_answers _ s.countDraw⟩

end Sys2Proof.Machine
end

section
/-!
What a step can do (40_step_cycle.md): by its next instruction, it ends a rejected fetch or an execute phase. The laws
of the fields over one step and over a run follow from the frame of the execute phase.
-/
namespace Sys2Proof.Machine

/-- A step's fetch is rejected and it only reports, or it executes its next instruction and ends (R81). -/
theorem cycle_cases {r : Byte} {s t : State} (h : cycle r s = .next t) :
    (s.nextInstr = none ∧ t = ((s.begin r).raise (.fetchRange s.pc)).finish) ∨
    ∃ i u, s.nextInstr = some i ∧ exec i (s.begin r).advancePc = .next u ∧ t = u.finish := by
  cases hf : s.fetch with
  | none =>
    rw [cycle_of_rejected r s hf] at h
    cases h
    exact .inl ⟨by rw [State.nextInstr, hf, Option.map_none], rfl⟩
  | some w =>
    obtain ⟨u, hu, _⟩ := exec_effect (decodeWord w) (s.begin r).advancePc
    rw [cycle_of_fetch r s w hf, finishResult_next hu] at h
    cases h
    exact .inr ⟨decodeWord w, u, by rw [State.nextInstr, hf, Option.map_some], hu, rfl⟩

/-- The same of a step with a drawn byte. -/
theorem step_instr_cases {s t : State} (h : step s = .next t) :
    (s.nextInstr = none ∧ t = ((s.countDraw.begin (Config.rnd s.draws)).raise (.fetchRange s.pc)).finish) ∨
    ∃ i u, s.nextInstr = some i ∧ exec i s.atExecute = .next u ∧ t = u.finish :=
  cycle_cases h

/-- Only `LD DT,Vx` writes the delay timer (10_state.md R18). -/
theorem stateUse_ne_delay {i : Instr} (h : ∀ x, i ≠ .ldDtVx x) : stateUse i ≠ .delay := by
  cases i with
  | ldDtVx x => exact absurd rfl (h x)
  | _ => exact nofun

/-- Only `LD ST,Vx` writes the sound timer (10_state.md R19). -/
theorem stateUse_ne_sound {i : Instr} (h : ∀ x, i ≠ .ldStVx x) : stateUse i ≠ .sound := by
  cases i with
  | ldStVx x => exact absurd rfl (h x)
  | _ => exact nofun

/-- Settles O39: the tick ends every step, on the value the execute phase left. -/
theorem timersTickEveryStep : Obligations.TimersTickEveryStep := by
  intro s t h
  obtain ⟨_, rfl⟩ | ⟨i, u, hi, hu, rfl⟩ := step_instr_cases h
  · exact ⟨fun _ => tickDown_toNat s.dt, fun _ => tickDown_toNat s.st⟩
  · have hframe := exec_frame hu
    refine ⟨fun hdelay => ?_, fun hsound => ?_⟩
    · have hdt : u.dt = s.dt := hframe.dt (stateUse_ne_delay fun x hx => hdelay x (hx ▸ hi))
      rw [State.finish_dt, tickDown_toNat, hdt]
    · have hst : u.st = s.st := hframe.st (stateUse_ne_sound fun x hx => hsound x (hx ▸ hi))
      rw [State.finish_st, tickDown_toNat, hst]

/-- Settles O40, by induction on the number of steps: the first step takes one, the rest of the run the rest. -/
theorem timersDecayOverRun : Obligations.TimersDecayOverRun := by
  intro n
  induction n with
  | zero =>
    intro s t h _
    cases h
    simp
  | succ n ih =>
    intro s t h hwrites
    obtain ⟨u, hstep, hrun⟩ := run_succ_cases h
    have hfirst := hwrites 0 s n.succ_pos (run_zero s)
    obtain ⟨hdt, hst⟩ := timersTickEveryStep s u hstep
    have hdt := hdt fun x => (hfirst x).1
    have hst := hst fun x => (hfirst x).2
    obtain ⟨ihdt, ihst⟩ := ih u t hrun fun k w hk hw =>
      hwrites (k + 1) w (Nat.succ_lt_succ hk) ((run_of_step k hstep).trans hw)
    omega

/-- A step sets in `ESR` the bit of its report and clears none (10_state.md R24). -/
theorem step_esr {s t : State} (h : step s = .next t) : t.esr = s.esr ||| t.report.esrBit := by
  obtain ⟨_, rfl⟩ | ⟨i, u, _, hu, rfl⟩ := step_instr_cases h
  · rfl
  · exact congrArg (· ||| u.report.esrBit) (exec_frame hu).esr

/-- The reports of a run are its first step's and those of the run after it. -/
theorem reports_of_step {s u : State} (n : Nat) (h : step s = .next u) :
    reports (n + 1) s = u.report :: reports n u := by
  rw [reports, h]

/-- Settles O41, by induction on the number of steps: the first step adds its own bit, the rest of the run theirs. -/
theorem esrRecordsReportsOfRun : Obligations.EsrRecordsReportsOfRun := by
  intro n
  induction n with
  | zero =>
    intro s t h k _
    cases h
    simp [reports]
  | succ n ih =>
    intro s t h k hk
    obtain ⟨u, hstep, hrun⟩ := run_succ_cases h
    rw [ih u t hrun k hk, step_esr hstep, BitVec.getLsbD_or, Report.esrBit_getLsbD u.report k hk,
      reports_of_step n hstep, List.any_cons, Bool.or_assoc]

/-- Every step draws one byte (10_state.md R27). -/
theorem step_draws {s t : State} (h : step s = .next t) : t.draws = s.draws + 1 := by
  obtain ⟨_, rfl⟩ | ⟨i, u, _, hu, rfl⟩ := step_instr_cases h
  · rfl
  · exact (exec_frame hu).draws

/-- A step executes its next instruction whole. -/
theorem takesOneStep_of_nextInstr {s : State} {i : Instr} (hi : s.nextInstr = some i) : TakesOneStep i s := by
  obtain ⟨u, hu, _⟩ := exec_effect i s.atExecute
  exact ⟨u, hu, cycle_of_nextInstr _ (show s.countDraw.nextInstr = some i from hi) hu⟩

/-- Settles O57: the execute phase of a step is one whole instruction; the count by induction on the number of steps. -/
theorem everyInstructionTakesOneStep : Obligations.EveryInstructionTakesOneStep := by
  refine ⟨fun s i => takesOneStep_of_nextInstr, fun n => ?_⟩
  induction n with
  | zero =>
    intro s t h
    cases h
    rfl
  | succ n ih =>
    intro s t h
    obtain ⟨u, hstep, hrun⟩ := run_succ_cases h
    rw [ih u t hrun, step_draws hstep]
    omega

end Sys2Proof.Machine
end

section
/-!
The program counter over one step (10_state.md section 3), and the invariant: no target of `pcLaw` is above 0x10FE, a
`CALL` pushes at most 4096, and memory changes by consecutive writes only.
-/
namespace Sys2Proof.Machine

/-- Where a skip executed after the fetch's advance leaves `pc` (41_flow.md section 3). -/
theorem State.skipIf_advancePc_pc (s : State) (c : Bool) :
    (s.advancePc.skipIf c).pc = if c then s.pc + 4#16 else s.pc + 2#16 := by
  rw [State.skipIf_pc, State.advancePc_pc, BitVec.add_assoc]
  rfl

/-- `RET` goes to the entry it pops (41_flow.md R101). -/
theorem exec_ret_pc (s : State) : Answers (·.pc = pcLaw .ret s) (exec .ret s.advancePc) := by
  refine ⟨_, exec_ret _, ?_⟩
  by_cases hempty : s.sp.val = 0
  · simp [pcLaw, hempty]
  · simp [pcLaw, hempty, State.top]

/-- `CALL` goes to its target where there is room (41_flow.md R103). -/
theorem exec_call_pc (nnn : Addr) (s : State) :
    Answers (·.pc = pcLaw (.call nnn) s) (exec (.call nnn) s.advancePc) := by
  refine ⟨_, exec_call nnn _, ?_⟩
  by_cases hroom : s.sp.val < 16
  · simp [pcLaw, hroom]
  · simp [pcLaw, hroom]

/-- A guarded keypad skip goes on by 4 where the value names a key in state `down` (45_keypad_timers.md R161, R162). -/
theorem guardKey_skip_pc (s : State) (vx : Byte) (down : Bool) {c : Bool → Bool} (hc : ∀ b, c b = true ↔ b = down) :
    Answers (·.pc = if KeyIs s vx down then s.pc + 4#16 else s.pc + 2#16)
      (s.advancePc.guardKey vx fun b => s.advancePc.skipIf (c b)) := by
  obtain ⟨hout, heq⟩ | ⟨hin, heq⟩ := s.advancePc.guardKey_cases vx fun b => s.advancePc.skipIf (c b)
  · have hnone : ¬ KeyIs s vx down := fun ⟨hin, _⟩ => absurd hin (Nat.not_lt.mpr hout)
    exact ⟨_, heq, by rw [if_neg hnone]; rfl⟩
  · refine ⟨_, heq, (s.skipIf_advancePc_pc _).trans (if_congr ?_ rfl rfl)⟩
    rw [hc]
    exact ⟨fun h => ⟨hin, h⟩, fun ⟨_, h⟩ => h⟩

/-- Executed after the fetch's advance, every instruction leaves in `pc` what the table gives it (10_state.md R15). -/
theorem exec_pc (i : Instr) (s : State) : Answers (·.pc = pcLaw i s) (exec i s.advancePc) := by
  cases i with
  | ret => exact exec_ret_pc s
  | call nnn => exact exec_call_pc nnn s
  | seImm | seReg => exact ⟨_, rfl, (s.skipIf_advancePc_pc _).trans (if_congr beq_iff_eq rfl rfl)⟩
  | sneImm | sneReg => exact ⟨_, rfl, (s.skipIf_advancePc_pc _).trans (if_congr bne_iff_ne rfl rfl)⟩
  | skp x => exact guardKey_skip_pc s (s.getV x) true fun _ => Iff.rfl
  | sknp x => exact guardKey_skip_pc s (s.getV x) false fun b => by cases b <;> decide
  | drw | ldB | storeRegs | loadRegs => exact answers_guardMem (·.pc = s.pc + 2#16) (fun _ => rfl) rfl
  | cls | jp | ldImm | addImm | ldReg | orReg | andReg | xorReg | addReg | subReg | shr | subnReg | shl | ldI | jpV0
  | rnd | ldVxDt | ldDtVx | ldStVx | addI | ldF | sys | ldVxK | unknown => exact ⟨_, rfl, rfl⟩

/-- The law reads none of the model's own fields (10_state.md R15). -/
theorem pcLaw_ownFields (i : Instr) (s : State) (report : Report) (rnd : Byte) (draws : Nat) :
    pcLaw i { s with report := report, rnd := rnd, draws := draws } = pcLaw i s := by
  cases i <;> rfl

/-- `pc` after a step with any random byte: the execute phase starts from the advanced `pc`, and a rejected fetch does
not advance. -/
theorem cycle_pc {r : Byte} (s : State) {t : State} (h : cycle r s = .next t) :
    (s.nextInstr = none → t.pc = s.pc) ∧ ∀ i, s.nextInstr = some i → t.pc = pcLaw i s := by
  obtain ⟨hnone, rfl⟩ | ⟨i, u, hi, hu, rfl⟩ := cycle_cases h
  · exact ⟨fun _ => rfl, fun _ hi => (nomatch hnone.symm.trans hi)⟩
  · refine ⟨fun hnone => (nomatch hnone.symm.trans hi), fun j hj => ?_⟩
    obtain rfl : i = j := Option.some.inj (hi.symm.trans hj)
    exact ((exec_pc i (s.begin r)).of_next hu).trans (pcLaw_ownFields i s _ _ s.draws)

/-- Settles O36: the law of a step with any byte, the draw counted. -/
theorem pcLawOverOneStep : Obligations.PcLawOverOneStep := by
  intro s t h
  obtain ⟨hnone, hsome⟩ := cycle_pc s.countDraw h
  exact ⟨hnone, fun i hi => (hsome i hi).trans (pcLaw_ownFields i s s.report s.rnd _)⟩

/-- Everything the law can give (10_state.md R15). -/
theorem pcLaw_cases (i : Instr) (s : State) :
    pcLaw i s = s.pc + 2#16 ∨ pcLaw i s = s.pc + 4#16 ∨ (∃ nnn, pcLaw i s = zextAddr nnn) ∨
    (∃ nnn, pcLaw i s = s.indexedTarget nnn) ∨ ∃ k : Fin 16, pcLaw i s = s.stack[k] := by
  cases i with
  | jp nnn => exact .inr (.inr (.inl ⟨nnn, rfl⟩))
  | jpV0 nnn => exact .inr (.inr (.inr (.inl ⟨nnn, rfl⟩)))
  | call nnn =>
    simp only [pcLaw]
    split
    · exact .inr (.inr (.inl ⟨nnn, rfl⟩))
    · exact .inl rfl
  | ret =>
    simp only [pcLaw]
    split
    · exact .inr (.inr (.inr (.inr ⟨⟨s.sp.val - 1, by omega⟩, rfl⟩)))
    · exact .inl rfl
  | seImm | sneImm | seReg | sneReg | skp | sknp =>
    simp only [pcLaw]
    split
    · exact .inr (.inl rfl)
    · exact .inl rfl
  | _ => exact .inl rfl

/-- A word is fetched from 4094 at most (40_step_cycle.md R82). -/
theorem State.pc_le_of_nextInstr {s : State} {i : Instr} (h : s.nextInstr = some i) : s.pc.toNat ≤ 4094 := by
  by_contra hgt
  rw [State.nextInstr, s.fetch_of_gt (by omega)] at h
  cases h

/-- From a state that meets the invariant no instruction leaves `pc` above 0x10FE (10_state.md R14). -/
theorem pcLaw_le {i : Instr} {s : State} (hstack : ∀ k : Fin 16, (s.stack[k]).toNat ≤ 4096)
    (hpc : s.pc.toNat ≤ 4094) : (pcLaw i s).toNat ≤ 0x10FE := by
  obtain heq | heq | ⟨nnn, heq⟩ | ⟨nnn, heq⟩ | ⟨k, heq⟩ := pcLaw_cases i s
  · rw [heq]; bv_omega
  · rw [heq]; bv_omega
  · rw [heq, zextAddr_toNat]; omega
  · have hv := (s.getV 0#4).isLt
    rw [heq, State.indexedTarget_toNat]
    omega
  · exact heq ▸ (hstack k).trans (by decide)

/-- An instruction keeps memory canonical, whatever its use (20_memory.md section 3). -/
theorem StateUse.Effect.mem_wf {use : StateUse} {s t : State} (h : use.Effect s t) (hs : s.mem.wf) : t.mem.wf := by
  by_cases huse : use = .memory
  · subst huse
    obtain ⟨a, bs, _, rfl⟩ := h
    exact Memory.wf_writeAll a bs hs
  · rwa [h.frame.mem huse]

/-- A stack entry after an instruction is one from before it or the address after a `CALL` (10_state.md R16). -/
theorem StateUse.Effect.stack_cases {use : StateUse} {s t : State} (h : use.Effect s t) (k : Fin 16) :
    t.stack[k] = s.stack[k] ∨ t.stack[k] = s.pc := by
  by_cases huse : use = .call
  · subst huse
    obtain ⟨_, _, _, _, rfl, hstack⟩ := h
    exact hstack k
  · rw [h.frame.stack huse]
    exact .inl rfl

/-- A step with any random byte keeps the invariant. -/
theorem cycle_inv {r : Byte} (s : State) {t : State} (hs : s.Inv) (h : cycle r s = .next t) : t.Inv := by
  have hlaw := (cycle_pc s h).2
  obtain ⟨hmem, hpc, hstack⟩ := hs
  obtain ⟨_, rfl⟩ | ⟨i, u, hi, hu, rfl⟩ := cycle_cases h
  · exact ⟨hmem, hpc, hstack⟩
  · have heffect := (exec_effect i _).of_next hu
    have hfetch := State.pc_le_of_nextInstr hi
    refine ⟨heffect.mem_wf hmem, hlaw i hi ▸ pcLaw_le hstack hfetch, fun k => ?_⟩
    obtain hk | hk := heffect.stack_cases k
    · exact hk ▸ hstack k
    · rw [State.finish_stack, hk, State.advancePc_pc, State.begin_pc]
      bv_omega

/-- Settles O45: the drawn byte is one of the bytes a step keeps the invariant with. -/
theorem stepKeepsInvariant : Obligations.StepKeepsInvariant :=
  fun s _ hs h => cycle_inv s.countDraw hs h

/-- Settles O46: no byte is listed, and `pc` and the stack are below their bounds. -/
theorem resetMeetsInvariant : Obligations.ResetMeetsInvariant :=
  ⟨Memory.wf_nil, by decide, by decide⟩

/-- A load keeps the invariant, where it fails too (70_reset_and_hazards.md R203). -/
theorem loadAnswer_inv (bytes : List Byte) {s : State} (hs : s.Inv) : (loadAnswer s (s.loadProgram bytes)).1.Inv := by
  obtain ⟨hmem, hpc, hstack⟩ := hs
  unfold State.loadProgram
  split
  · exact ⟨hmem, hpc, hstack⟩
  · exact ⟨Memory.wf_writeAll _ _ hmem, hpc, hstack⟩

/-- Settles O47: the font and the image are consecutive writes, a step keeps the invariant, and no other transaction
touches what it speaks of. -/
theorem transactionsKeepInvariant : Obligations.TransactionsKeepInvariant := by
  intro a s t r hs h
  cases a with
  | initializeBlock font =>
    cases h
    obtain ⟨_, hpc, hstack⟩ := resetMeetsInvariant
    exact ⟨Memory.wf_writeAll _ _ Memory.wf_nil, hpc, hstack⟩
  | loadProgram bytes =>
    have ht : (loadAnswer s (s.loadProgram bytes)).1 = t := congrArg Prod.fst (Host.Outcome.next.inj h)
    exact ht ▸ loadAnswer_inv bytes hs
  | step rnd =>
    obtain ⟨u, hu⟩ := cycle_answers rnd s
    rw [perform, hu] at h
    cases h
    exact cycle_inv s hs hu
  | setKey | readFrame | ackFrame =>
    cases h
    exact hs

end Sys2Proof.Machine
end

section
/-!
The whole step as one update of the state (40_step_cycle.md R81, R82), and what the random byte can change (10_state.md
R27).
-/
namespace Sys2Proof.Machine

/-- Settles O32: the decoded bytes are the fetched word, and `finish` is the tick and the log. -/
theorem stepRunsDecodedInstruction : Obligations.StepRunsDecodedInstruction := by
  intro s t i hpc hdecode hexec
  have hi : decodeWord (joinBytes (s.mem.read s.pc.toNat) (s.mem.read (s.pc.toNat + 1))) = i :=
    congrArg Prod.fst (Except.ok.inj hdecode)
  rw [step_of_fetch s _ (s.fetch_of_le hpc), hi]
  exact finishResult_next hexec

/-- Settles O33: the rejected fetch raises on the state as it was, and the step ends. -/
theorem rejectedFetchOnlyReports : Obligations.RejectedFetchOnlyReports := by
  intro s hpc
  rw [step_of_rejected s (s.fetch_of_gt hpc)]
  rfl

/-- The answer with an update of the next state. -/
def onNext (f : State → State) : Result → Result
  | .next t => .next (f t)
  | .fault r => .fault r
  | .refused r => .refused r

/-- An update of fields that no guard and no transfer of control reads or writes: it commutes with them. -/
structure Neutral (f : State → State) : Prop where
  i : ∀ s, (f s).i = s.i
  key : ∀ s, (f s).key = s.key
  pc : ∀ s, (f s).pc = s.pc
  sp : ∀ s, (f s).sp = s.sp
  top : ∀ s (h : s.sp.val ≠ 0) (h' : (f s).sp.val ≠ 0), (f s).top h' = s.top h
  setPc : ∀ s t, (f s).setPc t = f (s.setPc t)
  push : ∀ s t (h : s.sp.val < 16) (h' : (f s).sp.val < 16), (f s).push t h' = f (s.push t h)
  pop : ∀ s, (f s).pop = f s.pop
  raise : ∀ s r, (f s).raise r = f (s.raise r)

section
variable {f : State → State} (hf : Neutral f) (s : State)
include hf

/-- A guarded memory instruction commutes where its effect does. -/
theorem Neutral.guardMem (count : Nat) {t t' : State} (ht : t' = f t) :
    (f s).guardMem count t' = onNext f (s.guardMem count t) := by
  have hbase : (f s).base = s.base := congrArg BitVec.toNat (hf.i s)
  rw [State.guardMem_eq, State.guardMem_eq, hbase, hf.i, hf.raise, ht, ← apply_ite f]
  rfl

/-- A guarded keypad instruction commutes where its effect does. -/
theorem Neutral.guardKey {vx vx' : Byte} (hvx : vx' = vx) {t t' : Bool → State} (ht : ∀ down, t' down = f (t down)) :
    (f s).guardKey vx' t' = onNext f (s.guardKey vx t) := by
  subst hvx
  unfold State.guardKey
  split
  · simp only [hf.key, ht, onNext]
  · simp only [hf.raise, onNext]

/-- A skip commutes. -/
theorem Neutral.skipIf (c : Bool) : (f s).skipIf c = f (s.skipIf c) := by
  cases c with
  | false => rfl
  | true => rw [State.skipIf_true, State.skipIf_true, State.advancePc, hf.pc, hf.setPc, State.advancePc]

/-- `RET` commutes. -/
theorem Neutral.exec_ret : exec .ret (f s) = onNext f (exec .ret s) := by
  have hsp : (f s).sp.val = s.sp.val := congrArg Fin.val (hf.sp s)
  have haddr : (f s).instrAddr = s.instrAddr := congrArg (· - 2#16) (hf.pc s)
  rw [Machine.exec_ret, Machine.exec_ret]
  by_cases hempty : s.sp.val = 0
  · rw [dif_pos hempty, dif_pos (hsp.trans hempty), haddr, hf.raise]
    rfl
  · have hempty' : ¬ (f s).sp.val = 0 := hsp ▸ hempty
    rw [dif_neg hempty, dif_neg hempty', hf.top s hempty, hf.pop, hf.setPc]
    rfl

/-- `CALL` commutes. -/
theorem Neutral.exec_call (nnn : Addr) : exec (.call nnn) (f s) = onNext f (exec (.call nnn) s) := by
  have hsp : (f s).sp.val = s.sp.val := congrArg Fin.val (hf.sp s)
  have haddr : (f s).instrAddr = s.instrAddr := congrArg (· - 2#16) (hf.pc s)
  rw [Machine.exec_call, Machine.exec_call]
  by_cases hroom : s.sp.val < 16
  · have hroom' : (f s).sp.val < 16 := hsp ▸ hroom
    rw [dif_pos hroom, dif_pos hroom', hf.pc, hf.push s _ hroom, hf.setPc]
    rfl
  · rw [dif_neg hroom, dif_neg (hsp ▸ hroom), haddr, hf.raise]
    rfl

end

/-- The state with `q` as the byte supplied with the step in progress. -/
def State.supply (q : Byte) (s : State) : State := { s with rnd := q }

/-- The random byte is read by no guard and no transfer of control. -/
theorem neutral_supply (q : Byte) : Neutral (State.supply q) := by constructor <;> intros <;> rfl

/-- An instruction other than RND does the same whatever byte was supplied (10_state.md R27). -/
theorem exec_supply {i : Instr} (hi : ∀ x nn, i ≠ .rnd x nn) (q : Byte) (s : State) :
    exec i (s.supply q) = onNext (State.supply q) (exec i s) := by
  have hq := neutral_supply q
  cases i with
  | rnd x nn => exact absurd rfl (hi x nn)
  | ret => exact hq.exec_ret s
  | call nnn => exact hq.exec_call s nnn
  | seImm | sneImm | seReg | sneReg => exact congrArg Host.Outcome.next (hq.skipIf s _)
  | skp | sknp => exact hq.guardKey s rfl fun _ => hq.skipIf s _
  | drw _ _ n => exact hq.guardMem s n.toNat rfl
  | ldB => exact hq.guardMem s 3 rfl
  | storeRegs x | loadRegs x => exact hq.guardMem s (regCount x) rfl
  | cls | jp | ldImm | addImm | ldReg | orReg | andReg | xorReg | addReg | subReg | shr | subnReg | shl | ldI | jpV0
  | ldVxDt | ldDtVx | ldStVx | addI | ldF | sys | ldVxK | unknown => rfl

/-- Settles O44: the execute phase ends in the same state but for the byte, and the step ends it alike. -/
theorem randomByteMattersOnlyForRnd : Obligations.RandomByteMattersOnlyForRnd := by
  intro r q s t hrnd h
  obtain ⟨hnone, rfl⟩ | ⟨i, u, hi, hu, rfl⟩ := cycle_cases h
  · exact cycle_of_rejected q s (Option.map_eq_none_iff.mp hnone)
  · have hq : exec i (s.begin q).advancePc = .next (u.supply q) :=
      (exec_supply (fun x nn hx => hrnd x nn (hx ▸ hi)) q (s.begin r).advancePc).trans (congrArg _ hu)
    exact cycle_of_nextInstr q hi hq

end Sys2Proof.Machine
end

section
/-!
Register use (10_state.md R12): what an instruction writes is in its column "writes", and what it does depends on its
column "reads" alone.
-/
namespace Sys2Proof.Machine

/-- The register load, register by register (43_index_memory.md R146). -/
theorem State.getV_loadRegs (s : State) (x y : Nibble) :
    (s.loadRegs x).getV y = if y ≤ x then s.mem.read (s.base + y.toNat) else s.getV y := by
  have hle : y.toNat < regCount x ↔ y ≤ x := Nat.lt_succ_iff
  exact (loadRegFile_get s.mem s.base (regCount x) s.v y.toNat y.isLt).trans (if_congr hle rfl rfl)

/-- A register outside the column "writes" keeps its value (R12). -/
theorem exec_getV_of_not_writesV {i : Instr} {r : Nibble} (s : State) (h : writesV i r = false) :
    Answers (·.getV r = s.getV r) (exec i s) := by
  cases i with
  | ldImm | addImm | ldReg | orReg | andReg | xorReg | rnd | ldVxDt =>
    exact ⟨_, rfl, s.getV_setV_of_ne _ (beq_eq_false_iff_ne.mp h)⟩
  | addReg | subReg | shr | subnReg | shl =>
    obtain ⟨hx, hf⟩ := Bool.or_eq_false_iff.mp h
    exact ⟨_, rfl, s.getV_setFlagged_of_ne _ _ (beq_eq_false_iff_ne.mp hx) (beq_eq_false_iff_ne.mp hf)⟩
  | drw =>
    exact answers_guardMem (·.getV r = s.getV r) (fun _ => rfl) (s.getV_setV_of_ne _ (beq_eq_false_iff_ne.mp h))
  | loadRegs x =>
    exact answers_guardMem (·.getV r = s.getV r) (fun _ => rfl)
      ((s.getV_loadRegs x r).trans (if_neg (of_decide_eq_false h)))
  | cls => exact ⟨_, rfl, rfl⟩
  | _ =>
    obtain ⟨t, ht, heffect⟩ := exec_effect _ s
    exact ⟨t, ht, State.getV_congr (heffect.frame.v nofun nofun) r⟩

/-- The state with another register file. -/
def State.withV (v : RegFile) (s : State) : State := { s with v := v }

/-- The registers are read by no guard and by no transfer of control, once their operands are read. -/
theorem neutral_withV (v : RegFile) : Neutral (State.withV v) := by constructor <;> intros <;> rfl

/-- Two answers that differ in registers alone, and, where nothing is reported, in none that `written` names. -/
def RegistersApart (written : Nibble → Bool) (result result' : Result) : Prop :=
  ∃ t v, result = .next t ∧ result' = .next (t.withV v) ∧
    (t.report = .none → ∀ r, written r = true → (t.withV v).getV r = t.getV r)

/-- An instruction that writes no register and commutes with another register file. -/
theorem registersApart_of_commutes {i : Instr} {s : State} {v : RegFile} (hwrites : ∀ r, writesV i r = false)
    (h : exec i (s.withV v) = onNext (State.withV v) (exec i s)) :
    RegistersApart (writesV i) (exec i s) (exec i (s.withV v)) := by
  obtain ⟨t, ht, _⟩ := exec_effect i s
  refine ⟨t, v, ht, by rw [h, ht, onNext], fun _ r hr => ?_⟩
  rw [hwrites r] at hr
  cases hr

/-- One register written with one value. -/
theorem registersApart_setV {s : State} {v : RegFile} {x : Nibble} {b b' : Byte} (hb : b' = b) :
    RegistersApart (· == x) (.next (s.setV x b)) (.next ((s.withV v).setV x b')) := by
  subst hb
  refine ⟨_, ((s.withV v).setV x b').v, rfl, rfl, fun _ r hr => ?_⟩
  obtain rfl : r = x := beq_iff_eq.mp hr
  exact ((s.withV v).getV_setV_same r b').trans (s.getV_setV_same r b').symm

/-- A register and the flag written with one result and one flag. -/
theorem registersApart_setFlagged {s : State} {v : RegFile} {x : Nibble} {c c' : Bool} {b b' : Byte} (hc : c' = c)
    (hb : b' = b) :
    RegistersApart (fun r => r == x || r == 0xF#4) (.next (s.setFlagged x c b))
      (.next ((s.withV v).setFlagged x c' b')) := by
  subst hc hb
  refine ⟨_, ((s.withV v).setFlagged x c' b').v, rfl, rfl, fun _ r hr => ?_⟩
  show ((s.withV v).setFlagged x c' b').getV r = _
  rw [State.getV_setFlagged, State.getV_setFlagged]
  by_cases hx : r = x
  · rw [if_pos hx, if_pos hx]
  · have hf : r = 0xF#4 := by simpa [hx] using hr
    rw [if_neg hx, if_neg hx, if_pos hf, if_pos hf]

/-- The flag written and the framebuffer presented from one drawing. -/
theorem registersApart_present {s : State} {v : RegFile} {c c' : Canvas} (hc : c' = c) :
    RegistersApart (· == 0xF#4) (.next ((s.setV regF (flagByte c.hit)).present c.fb))
      (.next (((s.withV v).setV regF (flagByte c'.hit)).present c'.fb)) := by
  subst hc
  refine ⟨_, ((s.withV v).setV regF (flagByte c'.hit)).v, rfl, rfl, fun _ r hr => ?_⟩
  obtain rfl : r = regF := beq_iff_eq.mp hr
  exact ((s.withV v).getV_setV_same regF _).trans (s.getV_setV_same regF _).symm

/-- A guarded memory instruction: both raise, or both have their effect. -/
theorem registersApart_guardMem {written : Nibble → Bool} {s : State} {v : RegFile} (count : Nat) {t t' : State}
    (h : RegistersApart written (.next t) (.next t')) :
    RegistersApart written (s.guardMem count t) ((s.withV v).guardMem count t') := by
  rw [State.guardMem_eq, State.guardMem_eq]
  by_cases hout : outOfRange s.base count
  · rw [if_pos hout, if_pos (show outOfRange (s.withV v).base count from hout)]
    exact ⟨_, v, rfl, rfl, nofun⟩
  · rw [if_neg hout, if_neg (show ¬ outOfRange (s.withV v).base count from hout)]
    exact h

/-- The registers loaded hold the bytes of memory, whatever they held. -/
theorem registersApart_loadRegs (s : State) (v : RegFile) (x : Nibble) :
    RegistersApart (fun r => decide (r ≤ x)) (.next (s.loadRegs x)) (.next ((s.withV v).loadRegs x)) := by
  refine ⟨_, ((s.withV v).loadRegs x).v, rfl, rfl, fun _ r hr => ?_⟩
  have hle : r ≤ x := of_decide_eq_true hr
  show ((s.withV v).loadRegs x).getV r = _
  rw [State.getV_loadRegs, State.getV_loadRegs, if_pos hle, if_pos hle]
  rfl

/-- Register `k` by its number (R10). -/
theorem State.getV_ofNat (s : State) (k : Nat) (hk : k < 16) : s.getV (BitVec.ofNat 4 k) = s.v[k] := by
  have hnat : (BitVec.ofNat 4 k).toNat = k := Nat.mod_eq_of_lt hk
  simp only [State.getV, hnat]

/-- The bytes of the register dump depend on the registers up to `x` alone (43_index_memory.md R145). -/
theorem State.regsUpTo_congr {s t : State} {x : Nibble} (h : ∀ r, r ≤ x → t.getV r = s.getV r) :
    t.regsUpTo x = s.regsUpTo x := by
  refine List.ext_getElem (by rw [regsUpTo_length, regsUpTo_length]) fun k hk hk' => ?_
  have hx : k ≤ x.toNat := Nat.lt_succ_iff.mp (by rwa [regsUpTo_length] at hk)
  have h16 : k < 16 := hx.trans_lt x.isLt
  have hle : BitVec.ofNat 4 k ≤ x := (Nat.mod_eq_of_lt h16).trans_le hx
  rw [regsUpTo_get t x k hk h16, regsUpTo_get s x k hk' h16, ← t.getV_ofNat k h16, ← s.getV_ofNat k h16, h _ hle]

/-- From two states that differ in registers alone and agree on those an instruction reads, its answers differ in
registers alone and agree on those it writes (R12). -/
theorem exec_registersApart (i : Instr) (s : State) (v : RegFile)
    (hreads : ∀ r, readsV i r = true → (s.withV v).getV r = s.getV r) :
    RegistersApart (writesV i) (exec i s) (exec i (s.withV v)) := by
  have hv := neutral_withV v
  cases i with
  | ldImm | rnd | ldVxDt => exact registersApart_setV rfl
  | addImm x nn => exact registersApart_setV (congrArg (· + nn) (hreads x (beq_self_eq_true x)))
  | ldReg x y => exact registersApart_setV (hreads y (beq_self_eq_true y))
  | orReg x y | andReg x y | xorReg x y =>
    have hx := hreads x (by simp [readsV])
    have hy := hreads y (by simp [readsV])
    exact registersApart_setV (by rw [hx, hy])
  | addReg x y | subReg x y | subnReg x y =>
    have hx := hreads x (by simp [readsV])
    have hy := hreads y (by simp [readsV])
    exact registersApart_setFlagged (by rw [hx, hy]) (by rw [hx, hy])
  | shr x | shl x =>
    have hx := hreads x (beq_self_eq_true x)
    exact registersApart_setFlagged (by rw [hx]) (by rw [hx])
  | loadRegs x => exact registersApart_guardMem _ (registersApart_loadRegs s v x)
  | drw x y n =>
    have hx := hreads x (by simp [readsV])
    have hy := hreads y (by simp [readsV])
    have hdraw : (s.withV v).draw ((s.withV v).getV x) ((s.withV v).getV y) n = s.draw (s.getV x) (s.getV y) n := by
      rw [hx, hy]
      rfl
    exact registersApart_guardMem _ (registersApart_present hdraw)
  | ret => exact registersApart_of_commutes (fun _ => rfl) (hv.exec_ret s)
  | call nnn => exact registersApart_of_commutes (fun _ => rfl) (hv.exec_call s nnn)
  | seImm x | sneImm x =>
    have hx := hreads x (beq_self_eq_true x)
    refine registersApart_of_commutes (fun _ => rfl) (congrArg Host.Outcome.next ?_)
    rw [hx, hv.skipIf]
  | seReg x y | sneReg x y =>
    have hx := hreads x (by simp [readsV])
    have hy := hreads y (by simp [readsV])
    refine registersApart_of_commutes (fun _ => rfl) (congrArg Host.Outcome.next ?_)
    rw [hx, hy, hv.skipIf]
  | skp x | sknp x =>
    have hx := hreads x (beq_self_eq_true x)
    refine registersApart_of_commutes (fun _ => rfl) ?_
    exact hv.guardKey s hx fun _ => hv.skipIf s _
  | addI x | ldF x | ldDtVx x | ldStVx x =>
    have hx := hreads x (beq_self_eq_true x)
    refine registersApart_of_commutes (fun _ => rfl) (congrArg Host.Outcome.next ?_)
    rw [hx]
    rfl
  | jpV0 nnn =>
    have hx := hreads 0x0#4 rfl
    refine registersApart_of_commutes (fun _ => rfl) (congrArg Host.Outcome.next ?_)
    rw [State.indexedTarget, hx]
    rfl
  | ldB x =>
    have hx := hreads x (beq_self_eq_true x)
    exact registersApart_of_commutes (fun _ => rfl) (hv.guardMem s 3 (by rw [hx]; rfl))
  | storeRegs x =>
    have hregs : (s.withV v).regsUpTo x = s.regsUpTo x := State.regsUpTo_congr fun r hr => hreads r (decide_eq_true hr)
    exact registersApart_of_commutes (fun _ => rfl) (hv.guardMem s (regCount x) (by rw [hregs]; rfl))
  | cls | jp | ldI | sys | ldVxK | unknown => exact registersApart_of_commutes (fun _ => rfl) rfl

/-- Settles O37: the column "writes" by the frame of each instruction, the column "reads" by running it on two register
files. -/
theorem registerUseTable : Obligations.RegisterUseTable := by
  refine ⟨fun i s t h r hr => (exec_getV_of_not_writesV s hr).of_next h, fun i s s' t t' hs' hreads h h' => ?_⟩
  obtain ⟨v, rfl⟩ : ∃ v, s' = s.withV v := ⟨s'.v, hs'⟩
  obtain ⟨u, w, hu, hu', hwritten⟩ := exec_registersApart i s v hreads
  cases hu.symm.trans h
  cases hu'.symm.trans h'
  exact ⟨rfl, fun _ => hwritten⟩

end Sys2Proof.Machine
end

section
/-!
Register arithmetic and logic, continued (42_alu.md): the copy, the bitwise operations, and the shifts as numbers.
-/
namespace Sys2Proof.Machine

/-- Settles O3: the one register written holds the other's value. -/
theorem copyRegister : Obligations.CopyRegister :=
  fun x y => ⟨Laws.RoundTrip.ldReg x y rfl, fun s =>
    ⟨_, exec_ldReg x y s, rfl, s.getV_setV_same x _, fun _ hz => s.getV_setV_of_ne _ hz⟩⟩

/-- Settles O4: the destination is the one register written, and each operation acts bit by bit. -/
theorem logicOperationsLeaveFlag : Obligations.LogicOperationsLeaveFlag := by
  refine fun x y s => ⟨⟨_, exec_orReg x y s, rfl, fun _ hz => s.getV_setV_of_ne _ hz, fun k => ?_⟩,
    ⟨_, exec_andReg x y s, rfl, fun _ hz => s.getV_setV_of_ne _ hz, fun k => ?_⟩,
    ⟨_, exec_xorReg x y s, rfl, fun _ hz => s.getV_setV_of_ne _ hz, fun k => ?_⟩⟩
  · rw [State.getV_setV_same, BitVec.getLsbD_or]
  · rw [State.getV_setV_same, BitVec.getLsbD_and]
  · rw [State.getV_setV_same, BitVec.getLsbD_xor]

/-- The flag as a number. -/
theorem flagByte_toNat (c : Bool) : (flagByte c).toNat = c.toNat := by
  cases c <;> rfl

/-- The bit a right shift moves out, as a number (R129). -/
theorem lowBitOf_toNat (p : Byte) : (lowBitOf p).toNat = p.toNat % 2 := by
  rw [lowBitOf, BitVec.getLsbD, Nat.toNat_testBit, pow_zero, Nat.div_one]

/-- The bit a left shift moves out, as a number (R131). -/
theorem highBitOf_toNat (p : Byte) : (highBitOf p).toNat = p.toNat / 128 := by
  have hp : p.toNat < 256 := p.isLt
  rw [highBitOf, BitVec.getLsbD, Nat.toNat_testBit]
  omega

/-- A result and a flag written to `Vx` and `VF`, as numbers: what SHR and SHL share (R129, R131). -/
theorem State.setFlagged_toNat (s : State) (x : Nibble) (c : Bool) (b : Byte) {result flag : Nat}
    (hb : b.toNat = result) (hc : c.toNat = flag) :
    ((s.setFlagged x c b).getV x).toNat = result ∧
    (x ≠ 0xF#4 → ((s.setFlagged x c b).getV 0xF#4).toNat = flag) ∧
    ∀ z, z ≠ x → z ≠ 0xF#4 → (s.setFlagged x c b).getV z = s.getV z := by
  refine ⟨?_, fun hx => ?_, fun _ hx hf => s.getV_setFlagged_of_ne _ _ hx hf⟩
  · rw [State.getV_setFlagged_same, hb]
  · rw [State.getV_setFlagged_flag _ _ _ hx, flagByte_toNat, hc]

/-- Settles O8: a shift by one halves or doubles, and the bit it moves out is the flag. -/
theorem shiftsMoveBitIntoFlag : Obligations.ShiftsMoveBitIntoFlag := by
  refine fun x y s => ⟨⟨_, exec_shr x y s, rfl, s.setFlagged_toNat x _ _ ?_ (lowBitOf_toNat _)⟩,
    ⟨_, exec_shl x y s, rfl, s.setFlagged_toNat x _ _ ?_ (highBitOf_toNat _)⟩⟩
  · rw [BitVec.toNat_ushiftRight, Nat.shiftRight_eq_div_pow, pow_one]
  · rw [BitVec.toNat_shiftLeft, Nat.shiftLeft_eq, pow_one]

end Sys2Proof.Machine
end

section
/-!
The index register and the register dump and load (43_index_memory.md R142, R143, R145, R146), and the fetch of stored
bytes (20_memory.md section 6).
-/
namespace Sys2Proof.Machine

/-- Settles O11: the sum of 16-bit words wraps. -/
theorem addIndexWraps : Obligations.AddIndexWraps := by
  refine fun x s => ⟨_, exec_addI x s, rfl, ?_⟩
  rw [State.setI_i, BitVec.toNat_add, zextByte_toNat]

/-- Settles O12: five times a byte fits 16 bits. -/
theorem fontAddressIsFiveTimes : Obligations.FontAddressIsFiveTimes := by
  refine fun x s => ⟨_, exec_ldF x s, rfl, ?_⟩
  have hv : (s.getV x).toNat < 256 := (s.getV x).isLt
  rw [State.setI_i, fontAddress, BitVec.toNat_mul, zextByte_toNat, BitVec.toNat_ofNat]
  omega

/-- `x + 1` consecutive addresses exist exactly where the last does (20_memory.md R46). -/
theorem outOfRange_regCount (base : Nat) (x : Nibble) : outOfRange base (regCount x) ↔ base + x.toNat > 4095 :=
  and_iff_right x.toNat.succ_pos

/-- What a dump in range stores at the byte of each register (R145). -/
theorem State.read_storeRegs (s : State) {x y : Nibble} (hin : s.base + x.toNat ≤ 4095) (hy : y ≤ x) :
    (s.storeAll s.base (s.regsUpTo x)).mem.read (s.base + y.toNat) = s.getV y := by
  have hle : y.toNat ≤ x.toNat := hy
  have hk : y.toNat < (s.regsUpTo x).length := by
    rw [regsUpTo_length]
    exact Nat.lt_succ_of_le hle
  rw [State.storeAll_mem, Memory.read_writeAll_at s.mem s.base _ y.toNat hk (by omega)]
  exact s.regsUpTo_get x y.toNat hk y.isLt

/-- Settles O14: the guard passes the stores exactly where the last address exists. -/
theorem registerDump : Obligations.RegisterDump := by
  refine fun x s => ⟨fun h => ?_, fun h => ?_⟩
  · have hin : ¬ outOfRange s.base (regCount x) := by rw [outOfRange_regCount]; exact Nat.not_lt.mpr h
    refine ⟨_, s.guardMem_of_inRange _ _ hin, rfl, fun y hy => s.read_storeRegs h hy, fun a ha => ?_⟩
    refine s.mem.read_writeAll_of_outside s.base _ a (ha.imp_right fun hafter => ?_)
    rw [State.regsUpTo_length]
    exact hafter
  · exact ⟨_, lowestRejected_toNat s.i, s.guardMem_of_outOfRange _ _ ((outOfRange_regCount _ x).mpr h)⟩

/-- Settles O15: the guard passes the loads exactly where the last address exists. -/
theorem registerLoad : Obligations.RegisterLoad := by
  refine fun x s => ⟨fun h => ?_, fun h => ?_⟩
  · have hin : ¬ outOfRange s.base (regCount x) := by rw [outOfRange_regCount]; exact Nat.not_lt.mpr h
    exact ⟨_, s.guardMem_of_inRange _ _ hin, rfl, fun y hy => (s.getV_loadRegs x y).trans (if_pos hy),
      fun y hy => (s.getV_loadRegs x y).trans (if_neg (BitVec.not_le.mpr hy))⟩
  · exact ⟨_, lowestRejected_toNat s.i, s.guardMem_of_outOfRange _ _ ((outOfRange_regCount _ x).mpr h)⟩

/-- Settles O16: the two bytes fetched are two neighbours of the dump. -/
theorem fetchSeesStoredBytes : Obligations.FetchSeesStoredBytes := by
  intro x y z s t h hz hnext hexec hpc
  have hin : ¬ outOfRange s.base (regCount x) := by rw [outOfRange_regCount]; exact Nat.not_lt.mpr h
  have hzx : z.toNat ≤ x.toNat := hz
  have hy : y ≤ x := show y.toNat ≤ x.toNat by omega
  cases (s.guardMem_of_inRange _ _ hin).symm.trans hexec
  have hlow : (s.storeAll s.base (s.regsUpTo x)).pc.toNat = s.base + y.toNat := hpc
  have hhigh : s.base + y.toNat + 1 = s.base + z.toNat := by omega
  rw [State.fetch_of_le _ (by rw [hlow]; simp only [State.base]; omega), hlow, hhigh, s.read_storeRegs h hy,
    s.read_storeRegs h hz]
  rfl

end Sys2Proof.Machine
end

section
/-!
Drawing (44_display.md section 3): the pixels the drawing loops cover are those of the spec's sprite, so one drawing
flips them and a second one of the same sprite flips them back.
-/
namespace Sys2Proof.Machine

/-- The pixels the loops cover are those a sprite bit of 1 falls on (R151). -/
theorem spriteCovers_iff_spriteOn (s : State) (vx vy : Byte) (n : Nat) (px : Fin 64) (py : Fin 32) :
    spriteCovers s.mem s.base vx vy n px py ↔ SpriteOn s vx vy n px py := by
  constructor
  · rintro ⟨row, hrow, rfl, col, hcol, hbit, rfl⟩
    exact ⟨row, col, hrow, hcol, rfl, rfl, hbit⟩
  · rintro ⟨row, col, hrow, hcol, hx, hy, hbit⟩
    exact ⟨row, hrow, Fin.ext hy.symm, col, hcol, hbit, Fin.ext hx.symm⟩

/-- A drawing flips the pixels under a sprite bit of 1 and no other (R151). -/
theorem State.draw_get_ne_iff (s : State) (vx vy : Byte) (n : Nibble) (px : Fin 64) (py : Fin 32) :
    (s.draw vx vy n).fb.get px py ≠ s.fb.get px py ↔ SpriteOn s vx vy n.toNat px py := by
  have hn : n.toNat ≤ 32 := n.isLt.le.trans (by decide)
  rw [← spriteCovers_iff_spriteOn, State.draw, (drawRows_spec s.mem s.base vx vy n.toNat hn ⟨s.fb, false⟩).1]
  split
  case isTrue hcover => exact iff_of_true (Bool.not_ne_self _) hcover
  case isFalse hcover => exact iff_of_false (· rfl) hcover

/-- A drawing hits where a sprite bit of 1 falls on a pixel that is on (R152). -/
theorem State.draw_hit_iff (s : State) (vx vy : Byte) (n : Nibble) :
    (s.draw vx vy n).hit = true ↔ Collides s vx vy n.toNat := by
  have hn : n.toNat ≤ 32 := n.isLt.le.trans (by decide)
  rw [State.draw, (drawRows_spec s.mem s.base vx vy n.toNat hn ⟨s.fb, false⟩).2]
  simp only [spriteCovers_iff_spriteOn, Collides, Bool.false_eq_true, false_or]

/-- Every sprite byte exists where there is none or the last one does (20_memory.md R46, D29). -/
theorem outOfRange_sprite (base : Nat) (n : Nibble) :
    outOfRange base n.toNat ↔ n ≠ 0#4 ∧ base + n.toNat - 1 > 4095 := by
  have hzero : n ≠ 0#4 ↔ 0 < n.toNat := by
    rw [Nat.pos_iff_ne_zero, ne_eq, ne_eq, ← BitVec.toNat_inj]
    rfl
  rw [hzero]
  omega

/-- Settles O18: the guard passes, and one drawing flips and collides as the spec says. -/
theorem drawFlipsCoveredPixels : Obligations.DrawFlipsCoveredPixels := by
  intro x y n s hrange
  have hin : ¬ outOfRange s.base n.toNat := by
    rw [outOfRange_sprite]
    rintro ⟨hn, hlast⟩
    exact hrange.elim hn (Nat.not_le.mpr hlast)
  have hflag := s.getV_setV_same regF (flagByte (s.draw (s.getV x) (s.getV y) n).hit)
  refine ⟨_, s.guardMem_of_inRange _ _ hin, rfl, s.draw_get_ne_iff _ _ n, fun hhit => ?_, fun hmiss => ?_,
    fun _ hz => s.getV_setV_of_ne _ hz⟩
  · exact hflag.trans (congrArg flagByte ((s.draw_hit_iff _ _ n).mpr hhit))
  · exact hflag.trans (congrArg flagByte (Bool.eq_false_iff.mpr (mt (s.draw_hit_iff _ _ n).mp hmiss)))

/-- Settles O19: the guard raises before anything is drawn. -/
theorem drawRejectedWhole : Obligations.DrawRejectedWhole :=
  fun _ _ n s hn hlast => ⟨_, lowestRejected_toNat s.i,
    s.guardMem_of_outOfRange _ _ ((outOfRange_sprite s.base n).mpr ⟨hn, hlast⟩)⟩

/-- Where a sprite falls depends on `I` and memory alone. -/
theorem spriteOn_congr {s t : State} (hi : t.i = s.i) (hmem : t.mem = s.mem) (vx vy : Byte) (n : Nat) (px : Fin 64)
    (py : Fin 32) : SpriteOn t vx vy n px py ↔ SpriteOn s vx vy n px py := by
  simp only [SpriteOn, hi, hmem]

/-- A sprite covers some pixel exactly where some of its bytes is not 0 (R151). -/
theorem exists_spriteOn_iff (s : State) (vx vy : Byte) (n : Nat) :
    (∃ px py, SpriteOn s vx vy n px py) ↔ ∃ row, row < n ∧ s.mem.read (s.i.toNat + row) ≠ 0#8 := by
  constructor
  · rintro ⟨_, _, row, col, hrow, _, _, _, hbit⟩
    refine ⟨row, hrow, fun hzero => ?_⟩
    rw [hzero, BitVec.getLsbD_zero] at hbit
    cases hbit
  · rintro ⟨row, hrow, hne⟩
    obtain ⟨k, hk, hbit⟩ : ∃ k, k < 8 ∧ (s.mem.read (s.i.toNat + row)).getLsbD k = true := by
      by_contra hall
      push Not at hall
      refine hne (BitVec.eq_of_getLsbD_eq fun k hk => ?_)
      rw [BitVec.getLsbD_zero]
      exact Bool.eq_false_iff.mpr (hall k hk)
    have hcol : 7 - (7 - k) = k := by omega
    exact ⟨pixelX vx (7 - k), pixelY vy row, row, 7 - k, hrow, by omega, rfl, rfl, hcol.symm ▸ hbit⟩

/-- Settles O20: both drawings flip the same pixels, and the second collides where the first lit one. -/
theorem drawTwiceRestoresFrame : Obligations.DrawTwiceRestoresFrame := by
  intro x y n s hx hy hrange
  obtain ⟨t, ht, ht', hflip, _, _, hkeep⟩ := drawFlipsCoveredPixels x y n s hrange
  have hi : t.i = s.i := by rw [ht']
  have hmem : t.mem = s.mem := by rw [ht']
  obtain ⟨u, hu, _, hflip', hhit, hmiss, _⟩ := drawFlipsCoveredPixels x y n t (hi.symm ▸ hrange)
  rw [hkeep x hx, hkeep y hy] at hflip' hhit hmiss
  simp only [spriteOn_congr hi hmem] at hflip'
  have hcollide : u.getV 0xF#4 = 1#8 ↔ Collides t (s.getV x) (s.getV y) n.toNat :=
    ⟨fun hflag => by_contra fun hno => absurd (hflag.symm.trans (hmiss hno)) (by decide), hhit⟩
  have hlit : ∀ px py, SpriteOn s (s.getV x) (s.getV y) n.toNat px py → t.fb.get px py = !s.fb.get px py :=
    fun px py hon => Bool.eq_not_iff.mpr ((hflip px py).mpr hon)
  have hsecond : u.getV 0xF#4 = 1#8 ↔
      ∃ px py, SpriteOn s (s.getV x) (s.getV y) n.toNat px py ∧ s.fb.get px py = false := by
    simp only [hcollide, Collides, spriteOn_congr hi hmem]
    refine exists_congr fun px => exists_congr fun py => and_congr_right fun hon => ?_
    rw [hlit px py hon, Bool.not_eq_true']
  refine ⟨t, u, ht, hu, Frame.ext_get fun px py => ?_, hsecond, fun hblank => ?_⟩
  · by_cases hon : SpriteOn s (s.getV x) (s.getV y) n.toNat px py
    · rw [Bool.eq_not_iff.mpr ((hflip' px py).mpr hon), hlit px py hon, Bool.not_not]
    · exact (not_not.mp (mt (hflip' px py).mp hon)).trans (not_not.mp (mt (hflip px py).mp hon))
  · rw [hsecond, ← exists_spriteOn_iff s (s.getV x) (s.getV y)]
    simp only [hblank, and_true]

end Sys2Proof.Machine
end

section
/-!
Keypad skips and the delay timer (45_keypad_timers.md).
-/
namespace Sys2Proof.Machine

/-- Settles O21: a value that names a key decides by that key, any other is reported. -/
theorem keySkips : Obligations.KeySkips := by
  refine fun x s => ⟨fun hkey => ⟨?_, ?_⟩, fun hout => ⟨?_, ?_⟩⟩
  · rw [exec_skp, dif_pos hkey, State.skipIf_eq]
  · rw [exec_sknp, dif_pos hkey, State.skipIf_eq]
    simp only [Bool.not_eq_true']
  · rw [exec_skp, dif_neg (by omega)]
    rfl
  · rw [exec_sknp, dif_neg (by omega)]
    rfl

/-- Settles O22: the register is written before the tick and the timer read before it, so the tick acts on the value
written. -/
theorem delayTimerAccess : Obligations.DelayTimerAccess := by
  refine fun x => ⟨fun s => ⟨⟨_, exec_ldVxDt x s, rfl, s.getV_setV_same x _, fun _ hy => s.getV_setV_of_ne _ hy⟩,
    exec_ldDtVx x s⟩, fun s r hi => ?_, fun s r hi => ?_⟩
  · exact ⟨_, cycle_of_nextInstr r hi (exec_ldVxDt x _), State.getV_setV_same _ x _, tickDown_toNat s.dt⟩
  · exact ⟨_, cycle_of_nextInstr r hi (exec_ldDtVx x _), tickDown_toNat (s.getV x)⟩

end Sys2Proof.Machine
end

section
/-!
Calls and returns (41_flow.md section 2), and the unknown words (40_step_cycle.md R87).
-/
namespace Sys2Proof.Machine

/-- `CALL` with room (R103). -/
theorem exec_call_of_room (nnn : Addr) (s : State) (h : s.sp.val < 16) :
    exec (.call nnn) s = .next ((s.push s.pc h).setPc (zextAddr nnn)) := by
  rw [exec_call, dif_pos h]

/-- `RET` with an entry to pop (R101). -/
theorem exec_ret_of_entry (s : State) (h : s.sp.val ≠ 0) : exec .ret s = .next (s.pop.setPc (s.top h)) := by
  rw [exec_ret, dif_neg h]

/-- The entry a pop reads, by its number (10_state.md R17). -/
theorem State.top_eq (s : State) (h : s.sp.val ≠ 0) (k : Fin 16) (hk : s.sp.val = k.val + 1) :
    s.top h = s.stack[k] := by
  simp [State.top, hk]

/-- Settles O26: the push at `sp`, or the raise on a full stack. -/
theorem callPushesReturnAddress : Obligations.CallPushesReturnAddress := by
  refine fun nnn s => ⟨fun hroom => ⟨_, exec_call_of_room nnn s hroom, rfl, zextAddr_toNat nnn, rfl, fun k => ?_⟩,
    fun hfull => ?_⟩
  · rw [State.setPc_stack, State.push_stack]
    exact (Vector.getElem_set hroom k.isLt).trans (if_congr eq_comm rfl rfl)
  · rw [exec_call, dif_neg (by omega)]
    rfl

/-- Settles O27: the entry below `sp`, or the raise on an empty stack. -/
theorem returnPopsStack : Obligations.ReturnPopsStack := by
  refine fun s => ⟨fun k hk => ?_, fun hempty => ?_⟩
  · have hentry : s.sp.val ≠ 0 := by omega
    exact ⟨_, exec_ret_of_entry s hentry, rfl, s.top_eq hentry k hk, Nat.sub_eq_of_eq_add hk⟩
  · rw [exec_ret, dif_pos hempty]
    rfl

/-- Settles O28: the `RET` pops the entry the `CALL` pushed. -/
theorem callThenReturn : Obligations.CallThenReturn := by
  intro nnn s hroom
  obtain ⟨hcall, _⟩ := callPushesReturnAddress nnn s
  obtain ⟨t, ht, _, _, hsp, hstack⟩ := hcall hroom
  refine ⟨t, ht, fun u hustack husp => ?_⟩
  obtain ⟨hret, _⟩ := returnPopsStack u
  obtain ⟨w, hw, _, hpc, hwsp⟩ := hret ⟨s.sp.val, hroom⟩ (husp ▸ hsp)
  have hpushed := hstack ⟨s.sp.val, hroom⟩
  rw [if_pos rfl, ← hustack] at hpushed
  exact ⟨w, hw, hpc.trans hpushed, Fin.ext hwsp⟩

/-- Settles O31: each reserved row raises the word it stands for. -/
theorem reservedWordsOnlyReport : Obligations.ReservedWordsOnlyReport :=
  fun s => ⟨fun nnn => exec_sys nnn s, fun x => exec_ldVxK x s, fun w => exec_unknown w s⟩

end Sys2Proof.Machine
end

section
/-!
Reset and load (70_reset_and_hazards.md sections 1 and 2).
-/
namespace Sys2Proof.Machine

/-- Settles O48: every register is 0 but `pc` and the draw-flag, and memory reads as nothing listed. -/
theorem resetValues : Obligations.ResetValues := by
  refine ⟨fun x => ?_, rfl, rfl, fun k => ?_, rfl, rfl, rfl, Frame.get_blank, rfl, fun k => ?_, fun a h => ?_,
    fun a h => ?_, rfl⟩
  · exact Vector.getElem_replicate x.isLt
  · exact Vector.getElem_replicate k.isLt
  · exact Vector.getElem_replicate k.isLt
  · exact dif_pos h
  · exact dif_neg h.not_gt

/-- Settles O50: the font is stored from address 0 on; the default one is what nothing listed reads as. -/
theorem initializeCopiesFont : Obligations.InitializeCopiesFont := by
  refine ⟨fun font s a h => ?_, fun s => ?_⟩
  · have hlen : a < font.toList.length := by rwa [Vector.length_toList]
    have hread := Memory.read_writeAll_at [] 0 font.toList a hlen (by omega)
    rw [Nat.zero_add] at hread
    exact hread.trans (Vector.getElem_toList hlen)
  · have hmem : Memory.writeAll [] 0 Config.defaultFont.toList = [] := by
      refine Memory.writeAll_unlisted 0 _ fun k hk => ?_
      have h80 : k < 80 := by rwa [Vector.length_toList] at hk
      rw [Vector.getElem_toList, Memory.unlisted, dif_pos (by omega)]
      simp only [Nat.zero_add]
    rw [State.initializeBlock, hmem]
    rfl

/-- Settles O51: the size check passes the image exactly where its last byte exists. -/
theorem loadProgramWholeOrNothing : Obligations.LoadProgramWholeOrNothing := by
  refine fun s bytes => ⟨fun hfits => ?_, fun hlong => ?_⟩
  · have hsize : ¬ progBase + bytes.length > 4096 := by simp only [progBase]; omega
    have hload : s.loadProgram bytes = .ok (s.storeAll progBase bytes) := if_neg hsize
    refine ⟨s.storeAll progBase bytes, by rw [perform, hload]; rfl, rfl, fun k hk => ?_, fun a ha => ?_⟩
    · exact s.mem.read_writeAll_at 0x200 bytes k hk (by omega)
    · exact s.mem.read_writeAll_of_outside 0x200 bytes a ha
  · have hsize : progBase + bytes.length > 4096 := by simp only [progBase]; omega
    have hload : s.loadProgram bytes = .error .loadSize := if_pos hsize
    rw [perform, hload]
    rfl

end Sys2Proof.Machine
end
